-- ==== Sys2Proof/Word.lean ====
section
/-! DEFINITION. The plain data types of the CHIP-8 core: bytes, words, the 12-bit address field and register indices
(spec/00_scope.md R8, R10, R12; spec/30_encoding.md R71). -/

namespace Sys2Proof

/-- One byte: a general register, a timer, a memory cell, an immediate `kk` (R8, R77). -/
abbrev Byte := BitVec 8

/-- One 16-bit value: an opcode, `I`, `pc`, a stack slot (R8, R70). -/
abbrev Word := BitVec 16

/-- The 12-bit address field `nnn` of an opcode (R71, R75). -/
abbrev Addr12 := BitVec 12

/-- A general register's index, 0 to 15: the 4-bit field of an opcode cannot name another (R20, R78). -/
abbrev Reg := Fin 16

/-- V0, the offset register of Bnnn (R104). -/
abbrev Reg.v0 : Reg := 0

/-- VF, the register that doubles as the flag register (R21). -/
abbrev Reg.vF : Reg := 15

end Sys2Proof
end

