-- ==== Sys2Proof/Config.lean ====
section
/-! DEFINITION. What an implementation fixes (spec/00_scope.md R8, R9) and the free values: the answers of the external
capabilities and the number of host ticks between two steps (spec/60_exceptions.md R213, R219, R220, R221).
Every `opaque` below has no body: nothing can be proved of its value, so a claim holds whatever it is. -/

namespace Sys2Proof

/-- One finished interaction on a port of the core towards an external capability: the request and its answer
(spec/60_exceptions.md R215). -/
inductive Exchange where
  /-- `Display.clear()`: it has no answer (R219). -/
  | clear
  /-- `Display.draw(x, y, sprite)` and the display's answer `collided` (R219). -/
  | draw (x y : Byte) (sprite : List Byte) (collided : Bool)
  /-- `Keypad.is_down(key)` and the keypad's answer (R220). -/
  | isDown (key : Byte) (down : Bool)
  /-- `Keypad.poll_pressed()` and the keypad's answer: no key, or a key 0 to 15 (R220). -/
  | pollPressed (key : Option (Fin 16))
  /-- `Random.next_byte()` and the byte answered (R221). -/
  | nextByte (byte : Byte)
  deriving DecidableEq, Repr

/-- `LOAD_BASE`: where the program image is loaded and where pc starts (R9, R59; decision D12). -/
abbrev Config.loadBase : Nat := 0x200

/-- The number of bytes of memory: addresses 0x000 to 0xFFF (R8, R34, R50). -/
abbrev Config.memSize : Nat := 4096

/-- The largest legal address (R8, R51). -/
abbrev Config.lastAddr : Nat := 0xFFF

/-- The number of entries of the return-address stack (R8, R29). -/
abbrev Config.stackDepth : Nat := 16

/-- The bytes of one font digit's sprite (R8, R231). -/
abbrev Config.digitBytes : Nat := 5

/-- The bytes of the font table: 16 digits of 5 bytes each (R9, R59). -/
abbrev Config.fontSize : Nat := 80

/-- `TIMER_HZ`: the nominal cadence of the host's ticks. No rule reads it (R9, R212; spec/93 U4). -/
abbrev Config.timerHz : Nat := 60

/-- `FONT_BASE`, an OPEN parameter (R9; decision D11). Its type is D11's constraint FONT_BASE + 80 ≤ LOAD_BASE, that
is FONT_BASE ≤ 0x1B0 = 432. notes/assumptions/4. -/
opaque Config.fontBase : Fin 433

/-- `FONT_DATA`, an OPEN parameter: the 80 bytes of the font table (R9, R232; decision D11). notes/assumptions/4. -/
opaque Config.fontData : Fin 80 → Byte

/-- The display's answer `collided` to a draw: a free boolean (R219, spec/93 U6, U10). It may depend on which draw this
is (`n`), on every interaction before it (`past`) and on the request. notes/assumptions/2. -/
opaque Config.collided (n : Nat) (past : List Exchange) (x y : Byte) (sprite : List Byte) : Bool

/-- The keypad's answer to `is_down(key)`: a free boolean, for a key above 15 too (R220, R125; decision D14).
notes/assumptions/2. -/
opaque Config.keyDown (n : Nat) (past : List Exchange) (key : Byte) : Bool

/-- The keypad's answer to `poll_pressed()`: none, or some key 0 to 15, freely (R220; decision D15).
notes/assumptions/2. -/
opaque Config.polledKey (n : Nat) (past : List Exchange) : Option (Fin 16)

/-- The random source's answer to `next_byte()`: a free draw over 0 to 255 (R221; decision D25). notes/assumptions/2. -/
opaque Config.randomByte (n : Nat) (past : List Exchange) : Byte

/-- How many timer ticks the host delivered between the step before and this one: any number, zero included
(R213, spec/93 U5). notes/assumptions/3. -/
opaque Config.ticksBefore (n : Nat) : Nat

end Sys2Proof
end

