-- ==== Sys2Proof/Syntax.lean ====
section
/-! DEFINITION. The instructions, one constructor per row of spec/opcode_table.json, with the operand fields of
spec/30_encoding.md R76 as arguments (R94: the decoded form is a closed tagged variant). -/

namespace Sys2Proof

/-- The 34 operations (spec/30_encoding.md R79, R89, R92), in the table's order. -/
inductive Instr where
  /-- 00E0 Clear (R100) -/
  | cls
  /-- 00EE Return (R101) -/
  | ret
  /-- 1nnn Jump (R102) -/
  | jp (nnn : Addr12)
  /-- 2nnn Call (R103) -/
  | call (nnn : Addr12)
  /-- 3xkk Skip-if-equal (R121) -/
  | seImm (x : Reg) (kk : Byte)
  /-- 4xkk Skip-if-not-equal (R122) -/
  | sneImm (x : Reg) (kk : Byte)
  /-- 5xy0 Skip-if-reg-equal (R123) -/
  | seReg (x y : Reg)
  /-- 6xkk Load immediate (R141) -/
  | ldImm (x : Reg) (kk : Byte)
  /-- 7xkk Add immediate (R142) -/
  | addImm (x : Reg) (kk : Byte)
  /-- 8xy0 Move (R143) -/
  | ldReg (x y : Reg)
  /-- 8xy1 Or (R144) -/
  | or (x y : Reg)
  /-- 8xy2 And (R145) -/
  | and (x y : Reg)
  /-- 8xy3 Xor (R146) -/
  | xor (x y : Reg)
  /-- 8xy4 Add-with-carry (R147) -/
  | addReg (x y : Reg)
  /-- 8xy5 Sub-with-borrow (R148) -/
  | sub (x y : Reg)
  /-- 8xy6 Shift-right (R149): `y` is decoded but not read -/
  | shr (x y : Reg)
  /-- 8xy7 Sub-not-borrow (R150) -/
  | subn (x y : Reg)
  /-- 8xyE Shift-left (R151): `y` is decoded but not read -/
  | shl (x y : Reg)
  /-- 9xy0 Skip-if-reg-not-equal (R124) -/
  | sneReg (x y : Reg)
  /-- Annn Load index (R170) -/
  | ldI (nnn : Addr12)
  /-- Bnnn Jump plus offset (R104) -/
  | jpV0 (nnn : Addr12)
  /-- Cxkk Random (R152) -/
  | rnd (x : Reg) (kk : Byte)
  /-- Dxyn Draw sprite (R176): `n` is a byte count, 0 to 15 in a well-formed term (R77) -/
  | drw (x y : Reg) (n : Nat)
  /-- Ex9E Skip-if-key-down (R125) -/
  | skp (x : Reg)
  /-- ExA1 Skip-if-key-up (R126) -/
  | sknp (x : Reg)
  /-- Fx07 Read delay timer (R190) -/
  | ldVxDt (x : Reg)
  /-- Fx0A Wait for key (R191) -/
  | ldVxK (x : Reg)
  /-- Fx15 Set delay timer (R192) -/
  | ldDtVx (x : Reg)
  /-- Fx18 Set sound timer (R193) -/
  | ldStVx (x : Reg)
  /-- Fx1E Add to index (R171) -/
  | addIVx (x : Reg)
  /-- Fx29 Font address (R172) -/
  | ldFVx (x : Reg)
  /-- Fx33 BCD store (R173) -/
  | ldBVx (x : Reg)
  /-- Fx55 Register dump (R174) -/
  | ldMemVx (x : Reg)
  /-- Fx65 Register load (R175) -/
  | ldVxMem (x : Reg)
  deriving DecidableEq, Repr

end Sys2Proof
end

