-- ==== Sys2Proof/WellFormed.lean ====
section
/-! DEFINITION. The checks on what comes from outside: an instruction term, an opcode and a program image.
Register indices, immediates and addresses are bounded by their types (spec/30_encoding.md R78), so the one field of
`Instr` that a term can get wrong is Dxyn's byte count. -/

namespace Sys2Proof

/-- An instruction is well formed when each operand fits its encoding field: `n` of Dxyn is 0 to 15
(spec/30_encoding.md R77); every other operand's type is exactly its field (R72 to R76). -/
def Instr.wellFormed : Instr → Bool
  | .drw _ _ n => n < 16
  | .cls | .ret | .jp _ | .call _ | .seImm _ _ | .sneImm _ _ | .seReg _ _ | .ldImm _ _ | .addImm _ _ | .ldReg _ _
  | .or _ _ | .and _ _ | .xor _ _ | .addReg _ _ | .sub _ _ | .shr _ _ | .subn _ _ | .shl _ _ | .sneReg _ _ | .ldI _
  | .jpV0 _ | .rnd _ _ | .skp _ | .sknp _ | .ldVxDt _ | .ldVxK _ | .ldDtVx _ | .ldStVx _ | .addIVx _ | .ldFVx _
  | .ldBVx _ | .ldMemVx _ | .ldVxMem _ => true

/-- The 0 family has two valid values, 0x00E0 and 0x00EE (R80). -/
def legalFamily0 (op : Nat) : Bool := op == 0x00E0 || op == 0x00EE

/-- 5xyN and 9xyN are valid only with N = 0 (R81). -/
def legalFamily5And9 (op : Nat) : Bool := op % 16 == 0

/-- The valid selectors of the 8 family (R82). -/
def legalFamily8 (op : Nat) : Bool := [0, 1, 2, 3, 4, 5, 6, 7, 0xE].contains (op % 16)

/-- The valid selectors of the E family (R83). -/
def legalFamilyE (op : Nat) : Bool := [0x9E, 0xA1].contains (op % 256)

/-- The valid selectors of the F family (R84). -/
def legalFamilyF (op : Nat) : Bool :=
  [0x07, 0x0A, 0x15, 0x18, 0x1E, 0x29, 0x33, 0x55, 0x65].contains (op % 256)

/-- Whether an opcode is legal, read off the list of illegal values of spec/30_encoding.md R90 and not off the decoder:
the families 1, 2, 3, 4, 6, 7, A, B, C and D have no selector (R84). -/
def legalOpcode (op : Word) : Bool :=
  let n := op.toNat
  match n / 4096 with
  | 0 => legalFamily0 n
  | 5 => legalFamily5And9 n
  | 9 => legalFamily5And9 n
  | 8 => legalFamily8 n
  | 14 => legalFamilyE n
  | 15 => legalFamilyF n
  | _ => true

/-- A program image fits when it ends at or below the top of memory (spec/70_reset_and_hazards.md R233). -/
def imageFits (image : List Byte) : Bool := Config.loadBase + image.length ≤ Config.memSize

end Sys2Proof
end

