-- ==== Sys2Proof/Decode.lean ====
section
/-! DEFINITION. The operand decoder, the classifier and the encoder (spec/30_encoding.md R70 to R84, R90, R94). -/

namespace Sys2Proof

/-! ### The opcode fields (R71) -/

/-- The leading nibble `F = op[15:12]`. -/
def Word.family (op : Word) : Nat := (op.extractLsb' 12 4).toNat

/-- `x = op[11:8]`. -/
def Word.fieldX (op : Word) : Reg := (op.extractLsb' 8 4).toFin

/-- `y = op[7:4]`. -/
def Word.fieldY (op : Word) : Reg := (op.extractLsb' 4 4).toFin

/-- `n = z = op[3:0]`. -/
def Word.fieldN (op : Word) : Nat := (op.extractLsb' 0 4).toNat

/-- `kk = op[7:0]`. -/
def Word.fieldKK (op : Word) : Byte := op.extractLsb' 0 8

/-- `nnn = op[11:0]`. -/
def Word.fieldNNN (op : Word) : Addr12 := op.extractLsb' 0 12

/-! ### Classification (R79) -/

/-- The 8 family: the selector is `z = op[3:0]` (R74, R82). -/
def decodeFamily8 (op : Word) : Option Instr :=
  match op.fieldN with
  | 0x0 => some (.ldReg op.fieldX op.fieldY)
  | 0x1 => some (.or op.fieldX op.fieldY)
  | 0x2 => some (.and op.fieldX op.fieldY)
  | 0x3 => some (.xor op.fieldX op.fieldY)
  | 0x4 => some (.addReg op.fieldX op.fieldY)
  | 0x5 => some (.sub op.fieldX op.fieldY)
  | 0x6 => some (.shr op.fieldX op.fieldY)
  | 0x7 => some (.subn op.fieldX op.fieldY)
  | 0xE => some (.shl op.fieldX op.fieldY)
  | _ => none

/-- The E family: the selector is `op[7:0]` (R83). -/
def decodeFamilyE (op : Word) : Option Instr :=
  match op.fieldKK.toNat with
  | 0x9E => some (.skp op.fieldX)
  | 0xA1 => some (.sknp op.fieldX)
  | _ => none

/-- The F family: the selector is `op[7:0]` (R84). -/
def decodeFamilyF (op : Word) : Option Instr :=
  match op.fieldKK.toNat with
  | 0x07 => some (.ldVxDt op.fieldX)
  | 0x0A => some (.ldVxK op.fieldX)
  | 0x15 => some (.ldDtVx op.fieldX)
  | 0x18 => some (.ldStVx op.fieldX)
  | 0x1E => some (.addIVx op.fieldX)
  | 0x29 => some (.ldFVx op.fieldX)
  | 0x33 => some (.ldBVx op.fieldX)
  | 0x55 => some (.ldMemVx op.fieldX)
  | 0x65 => some (.ldVxMem op.fieldX)
  | _ => none

/-- The complete decode function: every 16-bit value is one operation or, as `none`, InvalidOpcode (R79 to R84). -/
def decodeWord (op : Word) : Option Instr :=
  match op.family with
  | 0x0 => if op = 0x00E0 then some .cls else if op = 0x00EE then some .ret else none
  | 0x1 => some (.jp op.fieldNNN)
  | 0x2 => some (.call op.fieldNNN)
  | 0x3 => some (.seImm op.fieldX op.fieldKK)
  | 0x4 => some (.sneImm op.fieldX op.fieldKK)
  | 0x5 => if op.fieldN = 0 then some (.seReg op.fieldX op.fieldY) else none
  | 0x6 => some (.ldImm op.fieldX op.fieldKK)
  | 0x7 => some (.addImm op.fieldX op.fieldKK)
  | 0x8 => decodeFamily8 op
  | 0x9 => if op.fieldN = 0 then some (.sneReg op.fieldX op.fieldY) else none
  | 0xA => some (.ldI op.fieldNNN)
  | 0xB => some (.jpV0 op.fieldNNN)
  | 0xC => some (.rnd op.fieldX op.fieldKK)
  | 0xD => some (.drw op.fieldX op.fieldY op.fieldN)
  | 0xE => decodeFamilyE op
  | 0xF => decodeFamilyF op
  | _ => none

/-- Why bytes are no instruction. -/
inductive DecodeError where
  /-- the two bytes form an opcode that matches no shape: InvalidOpcode (R90, R201) -/
  | invalidOpcode (op : Word)
  /-- fewer than two bytes: every instruction is two bytes long (R70) -/
  | tooShort
  deriving DecidableEq, Repr

/-- The opcode of two bytes in fetch order: the first byte holds bits 15:8 (R53, R54). -/
def wordOfBytes (hi lo : Byte) : Word := hi ++ lo

/-- The byte at an opcode's lower address: bits 15:8 (R54). -/
def Word.hiByte (op : Word) : Byte := op.extractLsb' 8 8

/-- The byte at an opcode's higher address: bits 7:0 (R54). -/
def Word.loByte (op : Word) : Byte := op.extractLsb' 0 8

/-- The decoder over any bytes: the instruction they begin with and the bytes after it, or the reason there is none. -/
def decode : List Byte → Except DecodeError (Instr × List Byte)
  | hi :: lo :: rest =>
    match decodeWord (wordOfBytes hi lo) with
    | some i => .ok (i, rest)
    | none => .error (.invalidOpcode (wordOfBytes hi lo))
  | _ => .error .tooShort

/-! ### The encoder: the formats of R76 -/

/-- A register index as its 4-bit field. -/
def Reg.bits (r : Reg) : BitVec 4 := BitVec.ofNat 4 r.val

/-- Format A: `FFFF nnnn nnnn nnnn`. -/
def formatA (f : BitVec 4) (nnn : Addr12) : Word := f ++ nnn

/-- Format XKK: `FFFF xxxx kkkk kkkk`. Format X is the same with `kk` a fixed selector. -/
def formatXKK (f : BitVec 4) (x : Reg) (kk : Byte) : Word := f ++ x.bits ++ kk

/-- Formats XY0, XYZ and XYN: `FFFF xxxx yyyy nnnn`. -/
def formatXYN (f : BitVec 4) (x y : Reg) (n : BitVec 4) : Word := f ++ x.bits ++ y.bits ++ n

/-- The opcode of an instruction (spec/30_encoding.md R76, R79; spec/opcode_table.json). -/
def encode : Instr → Word
  | .cls => 0x00E0
  | .ret => 0x00EE
  | .jp nnn => formatA 0x1 nnn
  | .call nnn => formatA 0x2 nnn
  | .seImm x kk => formatXKK 0x3 x kk
  | .sneImm x kk => formatXKK 0x4 x kk
  | .seReg x y => formatXYN 0x5 x y 0x0
  | .ldImm x kk => formatXKK 0x6 x kk
  | .addImm x kk => formatXKK 0x7 x kk
  | .ldReg x y => formatXYN 0x8 x y 0x0
  | .or x y => formatXYN 0x8 x y 0x1
  | .and x y => formatXYN 0x8 x y 0x2
  | .xor x y => formatXYN 0x8 x y 0x3
  | .addReg x y => formatXYN 0x8 x y 0x4
  | .sub x y => formatXYN 0x8 x y 0x5
  | .shr x y => formatXYN 0x8 x y 0x6
  | .subn x y => formatXYN 0x8 x y 0x7
  | .shl x y => formatXYN 0x8 x y 0xE
  | .sneReg x y => formatXYN 0x9 x y 0x0
  | .ldI nnn => formatA 0xA nnn
  | .jpV0 nnn => formatA 0xB nnn
  | .rnd x kk => formatXKK 0xC x kk
  | .drw x y n => formatXYN 0xD x y (BitVec.ofNat 4 n)
  | .skp x => formatXKK 0xE x 0x9E
  | .sknp x => formatXKK 0xE x 0xA1
  | .ldVxDt x => formatXKK 0xF x 0x07
  | .ldVxK x => formatXKK 0xF x 0x0A
  | .ldDtVx x => formatXKK 0xF x 0x15
  | .ldStVx x => formatXKK 0xF x 0x18
  | .addIVx x => formatXKK 0xF x 0x1E
  | .ldFVx x => formatXKK 0xF x 0x29
  | .ldBVx x => formatXKK 0xF x 0x33
  | .ldMemVx x => formatXKK 0xF x 0x55
  | .ldVxMem x => formatXKK 0xF x 0x65

/-! ### The mask and match words that each instruction's rule gives beside its format -/

/-- The bits of the opcode that select the instruction ("mask" of R100 to R104, R121 to R126, R141 to R152, R170 to
R176, R190 to R193). -/
def Instr.opcodeMask : Instr → Word
  | .cls | .ret => 0xFFFF
  | .jp _ | .call _ | .ldI _ | .jpV0 _ => 0xF000
  | .seImm _ _ | .sneImm _ _ | .ldImm _ _ | .addImm _ _ | .rnd _ _ | .drw _ _ _ => 0xF000
  | .seReg _ _ | .sneReg _ _ => 0xF00F
  | .ldReg _ _ | .or _ _ | .and _ _ | .xor _ _ | .addReg _ _ | .sub _ _ | .shr _ _ | .subn _ _ | .shl _ _ => 0xF00F
  | .skp _ | .sknp _ | .ldVxDt _ | .ldVxK _ | .ldDtVx _ | .ldStVx _ | .addIVx _ | .ldFVx _ | .ldBVx _ | .ldMemVx _
  | .ldVxMem _ => 0xF0FF

/-- The value of those bits ("match" of the same rules). -/
def Instr.opcodeMatch : Instr → Word
  | .cls => 0x00E0
  | .ret => 0x00EE
  | .jp _ => 0x1000
  | .call _ => 0x2000
  | .seImm _ _ => 0x3000
  | .sneImm _ _ => 0x4000
  | .seReg _ _ => 0x5000
  | .ldImm _ _ => 0x6000
  | .addImm _ _ => 0x7000
  | .ldReg _ _ => 0x8000
  | .or _ _ => 0x8001
  | .and _ _ => 0x8002
  | .xor _ _ => 0x8003
  | .addReg _ _ => 0x8004
  | .sub _ _ => 0x8005
  | .shr _ _ => 0x8006
  | .subn _ _ => 0x8007
  | .shl _ _ => 0x800E
  | .sneReg _ _ => 0x9000
  | .ldI _ => 0xA000
  | .jpV0 _ => 0xB000
  | .rnd _ _ => 0xC000
  | .drw _ _ _ => 0xD000
  | .skp _ => 0xE09E
  | .sknp _ => 0xE0A1
  | .ldVxDt _ => 0xF007
  | .ldVxK _ => 0xF00A
  | .ldDtVx _ => 0xF015
  | .ldStVx _ => 0xF018
  | .addIVx _ => 0xF01E
  | .ldFVx _ => 0xF029
  | .ldBVx _ => 0xF033
  | .ldMemVx _ => 0xF055
  | .ldVxMem _ => 0xF065

/-! ### The opcode table's bit numbering -/

/-- The word whose bit `k` is bit `k` of `w`, for `k < nbits`; the bits from `nbits` up are 0. Every instruction is one
16-bit word, so the table's numbering is the opcode's own (R10, R70). -/
def tableWord (nbits w : Nat) : Word := BitVec.ofNat 16 (w % 2 ^ nbits)

/-- The instruction the decoder reads from a word laid out as the hardware stores it, high byte first (R54). -/
def decodeTableWord (nbits w : Nat) : Option Instr :=
  match decode [(tableWord nbits w).hiByte, (tableWord nbits w).loByte] with
  | .ok (i, _) => some i
  | .error _ => none

end Sys2Proof
end

