-- ==== Sys2Proof/Machine/State.lean ====
section
/-! DEFINITION. The machine's state as plain data (spec/10_state.md R39), the reasons a step stops, and the state after
reset (spec/70_reset_and_hazards.md R230). The names of the fields are the spec's. -/

namespace Sys2Proof.Machine

/-- The four faults (spec/60_exceptions.md R200). -/
inductive FaultKind where
  /-- the fetched value matches no instruction shape: raised by decode (R201) -/
  | invalidOpcode
  /-- 2nnn with sp = 16 (R202) -/
  | stackOverflow
  /-- 00EE with sp = 0 (R203) -/
  | stackUnderflow
  /-- a computed address above 0xFFF: fetch, final pc check, Fx1E, Fx29, Fx33, Fx55, Fx65, Dxyn (R204) -/
  | memoryOutOfBounds
  deriving DecidableEq, Repr

/-- The fault record (R206). Its field `code` is a function of `kind` (R200): `FaultKind.code` in Machine/Ops.lean. -/
structure FaultRecord where
  /-- which fault -/
  kind : FaultKind
  /-- the address the faulting step fetched from -/
  pc : Word
  /-- the fetched opcode: `none` only for a fetch fault -/
  opcode : Option Word
  /-- MemoryOutOfBounds only: the out-of-range address -/
  addr : Option Word
  deriving DecidableEq, Repr

/-- Memory: the bytes that differ from the reset contents, as pairs of an address and a byte, addresses strictly rising
and no byte equal to its address's reset contents (`Memory.wf` in Machine/Ops.lean). -/
abbrev Memory := List Host.Cell

/-- The whole state (R39). The last two fields are the model's own, not the spec's. -/
structure State where
  /-- the general registers V0 to VF (R20) -/
  V : Vector Byte 16
  /-- the index register (R24) -/
  I : Word
  /-- the program counter (R25) -/
  pc : Word
  /-- the stack pointer: the index of the next free slot, 0 to 16 (R30) -/
  sp : Fin 17
  /-- the return-address stack (R29) -/
  stack : Vector Word 16
  /-- the delay timer (R32) -/
  DT : Byte
  /-- the sound timer (R33) -/
  ST : Byte
  /-- the 4096 bytes of memory (R34) -/
  mem : Memory
  /-- the fault status: set by a fault, cleared only by reset (R36, R207) -/
  fault : Option FaultRecord
  /-- the model's own: how many free values have been drawn. The n-th is the opaque constant of Config at n.
  notes/assumptions/2 and 3 -/
  draws : Nat
  /-- the model's own: every interaction with the display, the keypad and the random source so far, the newest first
  (R215, R222): what the outside world has seen of the core. notes/assumptions/2 -/
  io : List Exchange
  deriving DecidableEq, Repr

/-- Why a step answers a fault instead of a state. -/
inductive Fault where
  /-- Raised by `step` alone, on a state whose `fault` is already set: the step does nothing and gives the recorded
  fault again (R207, spec/93 U11 "stuck"). Safe: no claim can rest on what follows a fault. -/
  | latched (r : FaultRecord)
  deriving DecidableEq, Repr

/-- Why there is no next state. -/
inductive Refusal where
  /-- The arm of an instruction that has no meaning yet; no arm of this model is one. Safe. -/
  | notModelled (mnemonic : String)
  /-- Raised by the load port for a program image that does not fit below 4096: the host refuses it (R233, spec/93
  U14). Safe. -/
  | imageTooLarge (length : Nat)
  deriving DecidableEq, Repr

/-- The state after reset, as `load` builds it from the empty program image (R230, R231, R233): registers, timers, stack
and sp zeroed, pc at LOAD_BASE, no fault, memory at its reset contents. `I` = 0 is decision D17. -/
def State.reset : State where
  V := Vector.replicate 16 0
  I := 0
  pc := BitVec.ofNat 16 Config.loadBase
  sp := 0
  stack := Vector.replicate 16 0
  DT := 0
  ST := 0
  mem := []
  fault := none
  draws := 0
  io := []

end Sys2Proof.Machine
end

