-- ==== Sys2Proof/Machine/Ops.lean ====
section
/-! DEFINITION. The shared operations: memory and its primitives (spec/20_memory.md), the return-address stack and pc,
raising a fault (spec/60_exceptions.md R205, R206), the requests to the external capabilities (R215 to R222), the timer
tick (R211) and the load (spec/70_reset_and_hazards.md R230, R231). -/

namespace Sys2Proof.Machine

/-! ### Memory as data -/

/-- What an address reads as that nothing has written since reset: the font table at FONT_BASE, zero elsewhere (R231).
By decision D11 the font lies below LOAD_BASE, which is asked first. -/
def Memory.resetByte (a : Nat) : Byte :=
  if Config.loadBase ≤ a then 0
  else if h : Config.fontBase.val ≤ a ∧ a - Config.fontBase.val < 80 then Config.fontData ⟨a - Config.fontBase.val, h.2⟩
  else 0

/-- The byte at an address. -/
def Memory.get : Memory → Nat → Byte
  | [], a => Memory.resetByte a
  | (b, v) :: m, a => if b = a then v else Memory.get m a

/-- The memory with one byte written, in canonical form: a byte equal to its reset contents is not listed. -/
def Memory.set : Memory → Nat → Byte → Memory
  | [], a, v => if v = Memory.resetByte a then [] else [(a, v)]
  | (b, w) :: m, a, v =>
    if b < a then (b, w) :: Memory.set m a v
    else if b = a then (if v = Memory.resetByte a then m else (a, v) :: m)
    else if v = Memory.resetByte a then (b, w) :: m
    else (a, v) :: (b, w) :: m

/-- The memory with consecutive bytes written from an address up. -/
def Memory.setBytes : Memory → Nat → List Byte → Memory
  | m, _, [] => m
  | m, a, v :: vs => Memory.setBytes (Memory.set m a v) (a + 1) vs

/-- The consecutive bytes from an address up. -/
def Memory.getBytes (m : Memory) (a : Nat) : Nat → List Byte
  | 0 => []
  | n + 1 => Memory.get m a :: Memory.getBytes m (a + 1) n

/-- Canonical form: addresses strictly rising and inside memory, no byte equal to its reset contents. -/
def Memory.wf (m : Memory) : Bool :=
  decide (m.Pairwise fun c d => c.1 < d.1) && m.all fun c => decide (c.1 < Config.memSize) && c.2 != Memory.resetByte c.1

/-! ### Faults: what `raise F(info)` passes on (R206) -/

/-- The numeric code of a fault (R200; decision D31). -/
def FaultKind.code : FaultKind → Nat
  | .invalidOpcode => 1
  | .stackOverflow => 2
  | .stackUnderflow => 3
  | .memoryOutOfBounds => 4

/-- The field `code` of a fault record (R206). -/
def FaultRecord.code (r : FaultRecord) : Nat := r.kind.code

/-- The information of a `raise`: the fault and, for MemoryOutOfBounds, the out-of-range address (R11, R206). -/
structure Raise where
  kind : FaultKind
  addr : Option Word
  deriving DecidableEq, Repr

/-- MemoryOutOfBounds with the address that is out of range (R204). The record keeps 16 bits of it (R206). -/
def Raise.outOfBounds (a : Nat) : Raise := { kind := .memoryOutOfBounds, addr := some (BitVec.ofNat 16 a) }

/-- A computation that may raise a fault. -/
abbrev Raises (α : Type) := Except Raise α

/-! ### Memory access (R51, R52, R53, R58) -/

/-- `MemRead8(a)` (R52). -/
def memRead8 (s : State) (a : Nat) : Raises Byte :=
  if Config.lastAddr < a then .error (.outOfBounds a) else .ok (s.mem.get a)

/-- `MemWrite8(a, v)` (R52). -/
def memWrite8 (s : State) (a : Nat) (v : Byte) : Raises State :=
  if Config.lastAddr < a then .error (.outOfBounds a) else .ok { s with mem := s.mem.set a v }

/-- `MemRead(a, n)`: the n bytes from address a up; n = 0 gives none (R52). -/
def memRead (s : State) (a : Nat) : Nat → Raises (List Byte)
  | 0 => .ok []
  | n + 1 => do
    let b ← memRead8 s a
    let bs ← memRead s (a + 1) n
    return b :: bs

/-- Consecutive `MemWrite8` from address a up. -/
def memWrite (s : State) (a : Nat) : List Byte → Raises State
  | [] => .ok s
  | v :: vs => do
    let t ← memWrite8 s a v
    memWrite t (a + 1) vs

/-- The check of a range of n bytes from address a, made before the first access: the last address must be at most
0xFFF, and the fault's record names that last address, the one address computed here (R58, R200 with R204;
notes/assumptions/6). No byte, no check (decision D13). -/
def checkRange (a n : Nat) : Raises Unit :=
  if 0 < n ∧ Config.lastAddr < a + n - 1 then .error (.outOfBounds (a + n - 1)) else .ok ()

/-! ### The program counter -/

/-- The advance before dispatch (R85, R86): pc becomes the address of the next instruction. -/
def State.advance (s : State) : State := { s with pc := s.pc + 2 }

/-- pc overwritten with a target (R87). -/
def State.setPc (s : State) (target : Word) : State := { s with pc := target }

/-- `Skip()`: one further instruction width (R120). -/
def State.skip (s : State) : State := { s with pc := s.pc + 2 }

/-- A skip taken when a condition holds (R120). -/
def State.skipIf (s : State) (taken : Bool) : State := { s with pc := if taken then s.skip.pc else s.pc }

/-- pc back to the instruction's own address: the same opcode is fetched again next step (R27, R191). -/
def State.retry (s : State) : State := { s with pc := s.pc - 2 }

/-! ### The return-address stack (R29, R30) -/

/-- Push pc, the address of the next instruction: StackOverflow when sp = 16, before any write (R103, R202). -/
def State.push (s : State) : Raises State :=
  if h : s.sp.val < Config.stackDepth then
    .ok { s with stack := s.stack.set s.sp.val s.pc h, sp := ⟨s.sp.val + 1, Nat.succ_lt_succ h⟩ }
  else .error { kind := .stackOverflow, addr := none }

/-- Pop a return address into pc: StackUnderflow when sp = 0, before any write; the slot keeps its value (R101, R203,
R31). -/
def State.pop (s : State) : Raises State :=
  if h : s.sp.val = 0 then .error { kind := .stackUnderflow, addr := none }
  else
    have below : s.sp.val - 1 < 16 := by have := s.sp.isLt; omega
    .ok { s with sp := ⟨s.sp.val - 1, by omega⟩, pc := s.stack[s.sp.val - 1] }

/-! ### Requests to the external capabilities (R215, R219 to R222). Each draws one free value and logs the exchange. -/

/-- `Display.clear()`: a request without an answer (R219). -/
def State.requestClear (s : State) : State := { s with io := .clear :: s.io }

/-- The display's answer to the next draw. -/
def State.drawAnswer (s : State) (x y : Byte) (sprite : List Byte) : Bool := Config.collided s.draws s.io x y sprite

/-- `Display.draw(x, y, sprite)`, answered `s.drawAnswer x y sprite` (R219). -/
def State.requestDraw (s : State) (x y : Byte) (sprite : List Byte) : State :=
  { s with draws := s.draws + 1, io := .draw x y sprite (s.drawAnswer x y sprite) :: s.io }

/-- The keypad's answer to the next `is_down(key)`. -/
def State.downAnswer (s : State) (key : Byte) : Bool := Config.keyDown s.draws s.io key

/-- `Keypad.is_down(key)`, answered `s.downAnswer key` (R220). -/
def State.requestDown (s : State) (key : Byte) : State :=
  { s with draws := s.draws + 1, io := .isDown key (s.downAnswer key) :: s.io }

/-- The keypad's answer to the next `poll_pressed()`. -/
def State.pollAnswer (s : State) : Option (Fin 16) := Config.polledKey s.draws s.io

/-- `Keypad.poll_pressed()`, answered `s.pollAnswer` (R220). -/
def State.requestPoll (s : State) : State :=
  { s with draws := s.draws + 1, io := .pollPressed s.pollAnswer :: s.io }

/-- The random source's answer to the next `next_byte()`. -/
def State.randomAnswer (s : State) : Byte := Config.randomByte s.draws s.io

/-- `Random.next_byte()`, answered `s.randomAnswer` (R221). -/
def State.requestRandom (s : State) : State :=
  { s with draws := s.draws + 1, io := .nextByte s.randomAnswer :: s.io }

/-! ### Taking a fault (R205, R206) -/

/-- `raise` in a step that began in state `before` and had reached state `now`: every change to the block's state is
discarded and the fault record is set. Requests already made stand: `draws` and `io` are those of `now` (R85, R205). There
is no handler to enter and nothing to return from (R210). -/
def State.takeFault (before now : State) (opcode : Option Word) (r : Raise) : State :=
  { before with
    fault := some { kind := r.kind, pc := before.pc, opcode := opcode, addr := r.addr },
    draws := now.draws, io := now.io }

/-- The end of a step that reached state `now`: the final pc check (R85, R204 item 2). -/
def State.finish (before now : State) (opcode : Word) : State :=
  if Config.lastAddr < now.pc.toNat then before.takeFault now (some opcode) (.outOfBounds now.pc.toNat) else now

/-- One decoded instruction on a state whose pc is the instruction's own address: advance pc, apply the instruction's own
effect, make the final pc check (R85). A raised fault is taken, so there is always a next state. -/
def runEffect (opcode : Word) (s : State) (effect : State → Raises State) : Host.Outcome State Fault Refusal :=
  .next (match effect s.advance with
    | .ok t => s.finish t opcode
    | .error r => s.takeFault s (some opcode) r)

/-! ### The host's ports: tick (R211, R217), load (R218, R230, R231) and the answer of the step port (R216) -/

/-- One timer's decrement: a timer at 0 stays at 0 (R211; decision D16). -/
def timerDown (t : Byte) : Byte := if t = 0 then 0 else t - 1

/-- `tick()`: both timers, in one event; nothing else changes, and a set fault does not stop it (R211, R213). -/
def State.tick (s : State) : State := { s with DT := timerDown s.DT, ST := timerDown s.ST }

/-- A timer after n ticks (R211, R238): n less, but not below 0. -/
def timerAfter (n : Nat) (t : Byte) : Byte := if t = 0 then 0 else BitVec.ofNat 8 (t.toNat - n)

/-- The ticks that fell between the step before and this one: any number of them, a free value (R213).
notes/assumptions/3. -/
def State.betweenSteps (s : State) : State :=
  { s with DT := timerAfter (Config.ticksBefore s.draws) s.DT, ST := timerAfter (Config.ticksBefore s.draws) s.ST,
           draws := s.draws + 1 }

/-- `load(image)`: a whole new state (R230, R235) with the image at LOAD_BASE (R231), or none if the image does not fit
(R233). The world outside the block is not reset: the free draws and the log of exchanges go on. -/
def State.load (s : State) (image : List Byte) : Option State :=
  if imageFits image then
    some { State.reset with mem := Memory.setBytes [] Config.loadBase image, draws := s.draws, io := s.io }
  else none

/-- What the step port answers (R215, R216). -/
inductive StepAnswer where
  | ok
  | err (r : FaultRecord)
  deriving DecidableEq, Repr

/-- The answer of a step that ended in a state: `Err` with the record if the step raised a fault (R85, R216). -/
def State.stepAnswer (after : State) : StepAnswer :=
  match after.fault with
  | none => .ok
  | some r => .err r

end Sys2Proof.Machine
end

