-- ==== Sys2Proof/Machine/Operands.lean ====
section
/-! DEFINITION. The operand forms: a register named by a field, a zero-extended immediate or address, and the
index-relative ranges (spec/30_encoding.md R77; spec/43_index_memory.md R177). -/

namespace Sys2Proof.Machine

/-- `V[x]` (R11, R20). -/
def State.reg (s : State) (x : Reg) : Byte := s.V[x.val]

/-- `V[x] <- b` (R11, R20). -/
def State.setReg (s : State) (x : Reg) (b : Byte) : State := { s with V := s.V.set x.val b }

/-- `I <- w` (R11, R24). -/
def State.setI (s : State) (w : Word) : State := { s with I := w }

/-- A computed value of I: MemoryOutOfBounds if it lies above 0xFFF, and then I is not written (R24, R171, R172). -/
def State.setIChecked (s : State) (a : Nat) : Raises State :=
  if Config.lastAddr < a then .error (.outOfBounds a) else .ok (s.setI (BitVec.ofNat 16 a))

/-- An address field as a 16-bit value: `zext_16(nnn)` (R77). -/
def zextAddr (nnn : Addr12) : Word := nnn.setWidth 16

/-- A register value as a 16-bit value: `zext_16(V[x])` (R104, R171). -/
def zextByte (b : Byte) : Word := b.setWidth 16

/-- V0 to Vx inclusive, the bytes that Fx55 stores (R174). -/
def State.regsTo (s : State) (x : Reg) : List Byte := s.V.toList.take (x.val + 1)

/-- Registers from number i up loaded with the given bytes (R175). -/
def loadRegs (V : Vector Byte 16) (i : Nat) : List Byte → Vector Byte 16
  | [] => V
  | b :: bs => loadRegs (V.setIfInBounds i b) (i + 1) bs

/-- V0 upward loaded with the given bytes (R175). -/
def State.setRegs (s : State) (bs : List Byte) : State := { s with V := loadRegs s.V 0 bs }

/-- The bytes at I to I + n - 1, the whole range checked first (R56, R58). -/
def readAtI (s : State) (n : Nat) : Raises (List Byte) := do
  checkRange s.I.toNat n
  memRead s s.I.toNat n

/-- The given bytes stored at I upward, the whole range checked first (R56, R58). -/
def writeAtI (s : State) (bs : List Byte) : Raises State := do
  checkRange s.I.toNat bs.length
  memWrite s s.I.toNat bs

/-- The address of digit d's sprite: `FONT_BASE + 5 * d`, for all 8 bits of d (R172; decision D10). -/
def fontAddr (d : Byte) : Nat := Config.fontBase.val + Config.digitBytes * d.toNat

/-- The decimal digits of a byte: hundreds, tens, ones (R173). -/
def bcdDigits (v : Byte) : List Byte :=
  [BitVec.ofNat 8 (v.toNat / 100), BitVec.ofNat 8 (v.toNat / 10 % 10), BitVec.ofNat 8 (v.toNat % 10)]

end Sys2Proof.Machine
end

