-- ==== Sys2Proof/Machine/Flags.lean ====
section
/-! DEFINITION. The 8-bit results and the flag values that go with them (spec/42_alu.md R140, R147 to R151, R153), and
the one order in which a result and its flag are written (spec/10_state.md R22). -/

namespace Sys2Proof.Machine

/-- A flag's value in VF: exactly 0 or 1 (R22). -/
def flagByte (f : Bool) : Byte := if f then 1 else 0

/-- The carry out of bit 7 of `a + b` (R147). -/
def carryOut (a b : Byte) : Bool := decide (255 < a.toNat + b.toNat)

/-- The not-borrow flag of `a - b`: 1 only if a is strictly greater (R148, R150). -/
def notBorrow (a b : Byte) : Bool := decide (b.toNat < a.toNat)

/-- Bit 0, which a right shift moves out (R149). -/
def shiftedOutRight (a : Byte) : Bool := a.getLsbD 0

/-- Bit 7, which a left shift moves out (R151). -/
def shiftedOutLeft (a : Byte) : Bool := a.getLsbD 7

/-- VF written as a flag (R22, R153). -/
def State.setFlag (s : State) (f : Bool) : State := s.setReg .vF (flagByte f)

/-- A result to V[x] and then its flag to VF, so that with x = 0xF the flag is what VF keeps (R13, R22, R140). -/
def State.setResult (s : State) (x : Reg) (r : Byte) (f : Bool) : State := (s.setReg x r).setFlag f

end Sys2Proof.Machine
end

