-- ==== Sys2Proof/Machine/Alu.lean ====
section
/-! DEFINITION. Register loads, 8-bit arithmetic and logic, and RND (spec/42_alu.md R140 to R153). Sums, differences and
shifts of `BitVec 8` are the rules' `mod 256`. -/

namespace Sys2Proof.Machine

/-- LD Vx, kk (R141). -/
def execLdImm (x : Reg) (kk : Byte) (s : State) : Host.Outcome State Fault Refusal :=
  runEffect (encode (.ldImm x kk)) s fun t => .ok (t.setReg x kk)

/-- ADD Vx, kk (R142): the carry is discarded and VF is not written. -/
def execAddImm (x : Reg) (kk : Byte) (s : State) : Host.Outcome State Fault Refusal :=
  runEffect (encode (.addImm x kk)) s fun t => .ok (t.setReg x (t.reg x + kk))

/-- LD Vx, Vy (R143). -/
def execLdReg (x y : Reg) (s : State) : Host.Outcome State Fault Refusal :=
  runEffect (encode (.ldReg x y)) s fun t => .ok (t.setReg x (t.reg y))

/-- OR Vx, Vy (R144): no flag (decision D8). -/
def execOr (x y : Reg) (s : State) : Host.Outcome State Fault Refusal :=
  runEffect (encode (.or x y)) s fun t => .ok (t.setReg x (t.reg x ||| t.reg y))

/-- AND Vx, Vy (R145): no flag (decision D8). -/
def execAnd (x y : Reg) (s : State) : Host.Outcome State Fault Refusal :=
  runEffect (encode (.and x y)) s fun t => .ok (t.setReg x (t.reg x &&& t.reg y))

/-- XOR Vx, Vy (R146): no flag (decision D8). -/
def execXor (x y : Reg) (s : State) : Host.Outcome State Fault Refusal :=
  runEffect (encode (.xor x y)) s fun t => .ok (t.setReg x (t.reg x ^^^ t.reg y))

/-- ADD Vx, Vy (R147). -/
def execAddReg (x y : Reg) (s : State) : Host.Outcome State Fault Refusal :=
  runEffect (encode (.addReg x y)) s fun t =>
    .ok (t.setResult x (t.reg x + t.reg y) (carryOut (t.reg x) (t.reg y)))

/-- SUB Vx, Vy (R148). -/
def execSub (x y : Reg) (s : State) : Host.Outcome State Fault Refusal :=
  runEffect (encode (.sub x y)) s fun t =>
    .ok (t.setResult x (t.reg x - t.reg y) (notBorrow (t.reg x) (t.reg y)))

/-- SHR Vx (R149): `y` is part of the opcode and is not read. -/
def execShr (x y : Reg) (s : State) : Host.Outcome State Fault Refusal :=
  runEffect (encode (.shr x y)) s fun t => .ok (t.setResult x (t.reg x >>> 1) (shiftedOutRight (t.reg x)))

/-- SUBN Vx, Vy (R150). -/
def execSubn (x y : Reg) (s : State) : Host.Outcome State Fault Refusal :=
  runEffect (encode (.subn x y)) s fun t =>
    .ok (t.setResult x (t.reg y - t.reg x) (notBorrow (t.reg y) (t.reg x)))

/-- SHL Vx (R151): `y` is part of the opcode and is not read. -/
def execShl (x y : Reg) (s : State) : Host.Outcome State Fault Refusal :=
  runEffect (encode (.shl x y)) s fun t => .ok (t.setResult x (t.reg x <<< 1) (shiftedOutLeft (t.reg x)))

/-- RND Vx, kk (R152): one byte is requested even when kk = 0. -/
def execRnd (x : Reg) (kk : Byte) (s : State) : Host.Outcome State Fault Refusal :=
  runEffect (encode (.rnd x kk)) s fun t => .ok (t.requestRandom.setReg x (t.randomAnswer &&& kk))

end Sys2Proof.Machine
end

