-- ==== Sys2Proof/Machine/Control.lean ====
section
/-! DEFINITION. Control transfer: CLS, RET, JP, CALL, JP_V0 (spec/40_control_flow.md R100 to R104). Each effect starts on
a state whose pc is the address of the next instruction (R86). -/

namespace Sys2Proof.Machine

/-- CLS (R100): one clear request; the block's state does not change but for the pc advance. -/
def execCls (s : State) : Host.Outcome State Fault Refusal :=
  runEffect (encode .cls) s fun t => .ok t.requestClear

/-- RET (R101). -/
def execRet (s : State) : Host.Outcome State Fault Refusal :=
  runEffect (encode .ret) s fun t => t.pop

/-- JP nnn (R102). -/
def execJp (nnn : Addr12) (s : State) : Host.Outcome State Fault Refusal :=
  runEffect (encode (.jp nnn)) s fun t => .ok (t.setPc (zextAddr nnn))

/-- CALL nnn (R103). -/
def execCall (nnn : Addr12) (s : State) : Host.Outcome State Fault Refusal :=
  runEffect (encode (.call nnn)) s fun t => do return (← t.push).setPc (zextAddr nnn)

/-- JP V0, nnn (R104): the sum fits in 16 bits. -/
def execJpV0 (nnn : Addr12) (s : State) : Host.Outcome State Fault Refusal :=
  runEffect (encode (.jpV0 nnn)) s fun t => .ok (t.setPc (zextAddr nnn + zextByte (t.reg .v0)))

end Sys2Proof.Machine
end

