-- ==== Sys2Proof/Machine/Index.lean ====
section
/-! DEFINITION. The index register and memory access: LD_I, ADD_I_VX, LD_F_VX, LD_B_VX, LD_MEM_VX, LD_VX_MEM, DRW
(spec/43_index_memory.md R170 to R177). -/

namespace Sys2Proof.Machine

/-- LD I, nnn (R170). -/
def execLdI (nnn : Addr12) (s : State) : Host.Outcome State Fault Refusal :=
  runEffect (encode (.ldI nnn)) s fun t => .ok (t.setI (zextAddr nnn))

/-- ADD I, Vx (R171): VF is not written. -/
def execAddIVx (x : Reg) (s : State) : Host.Outcome State Fault Refusal :=
  runEffect (encode (.addIVx x)) s fun t => t.setIChecked (t.I.toNat + (t.reg x).toNat)

/-- LD F, Vx (R172). -/
def execLdFVx (x : Reg) (s : State) : Host.Outcome State Fault Refusal :=
  runEffect (encode (.ldFVx x)) s fun t => t.setIChecked (fontAddr (t.reg x))

/-- LD B, Vx (R173): three digits at I, I + 1, I + 2. -/
def execLdBVx (x : Reg) (s : State) : Host.Outcome State Fault Refusal :=
  runEffect (encode (.ldBVx x)) s fun t => writeAtI t (bcdDigits (t.reg x))

/-- LD [I], Vx (R174): I is unchanged (decision D9). -/
def execLdMemVx (x : Reg) (s : State) : Host.Outcome State Fault Refusal :=
  runEffect (encode (.ldMemVx x)) s fun t => writeAtI t (t.regsTo x)

/-- LD Vx, [I] (R175): I is unchanged (decision D9). -/
def execLdVxMem (x : Reg) (s : State) : Host.Outcome State Fault Refusal :=
  runEffect (encode (.ldVxMem x)) s fun t => do return t.setRegs (← readAtI t (x.val + 1))

/-- DRW Vx, Vy, n (R176): the range check, the sprite's bytes, one draw request, and VF last. -/
def execDrw (x y : Reg) (n : Nat) (s : State) : Host.Outcome State Fault Refusal :=
  runEffect (encode (.drw x y n)) s fun t => do
    let sprite ← readAtI t n
    return (t.requestDraw (t.reg x) (t.reg y) sprite).setFlag (t.drawAnswer (t.reg x) (t.reg y) sprite)

end Sys2Proof.Machine
end

