-- ==== Sys2Proof/Machine/Skips.lean ====
section
/-! DEFINITION. Conditional skips: SE_IMM, SNE_IMM, SE_REG, SNE_REG, SKP, SKNP (spec/41_skips.md R120 to R126). -/

namespace Sys2Proof.Machine

/-- SE Vx, kk (R121). -/
def execSeImm (x : Reg) (kk : Byte) (s : State) : Host.Outcome State Fault Refusal :=
  runEffect (encode (.seImm x kk)) s fun t => .ok (t.skipIf (t.reg x == kk))

/-- SNE Vx, kk (R122). -/
def execSneImm (x : Reg) (kk : Byte) (s : State) : Host.Outcome State Fault Refusal :=
  runEffect (encode (.sneImm x kk)) s fun t => .ok (t.skipIf (t.reg x != kk))

/-- SE Vx, Vy (R123). -/
def execSeReg (x y : Reg) (s : State) : Host.Outcome State Fault Refusal :=
  runEffect (encode (.seReg x y)) s fun t => .ok (t.skipIf (t.reg x == t.reg y))

/-- SNE Vx, Vy (R124). -/
def execSneReg (x y : Reg) (s : State) : Host.Outcome State Fault Refusal :=
  runEffect (encode (.sneReg x y)) s fun t => .ok (t.skipIf (t.reg x != t.reg y))

/-- SKP Vx (R125): one request with the full Vx (decision D14), sampled now (decision D29). -/
def execSkp (x : Reg) (s : State) : Host.Outcome State Fault Refusal :=
  runEffect (encode (.skp x)) s fun t => .ok ((t.requestDown (t.reg x)).skipIf (t.downAnswer (t.reg x)))

/-- SKNP Vx (R126). -/
def execSknp (x : Reg) (s : State) : Host.Outcome State Fault Refusal :=
  runEffect (encode (.sknp x)) s fun t => .ok ((t.requestDown (t.reg x)).skipIf (!t.downAnswer (t.reg x)))

end Sys2Proof.Machine
end

