-- ==== Sys2Proof/Machine/Timers.lean ====
section
/-! DEFINITION. Timer access and the key wait: LD_VX_DT, LD_VX_K, LD_DT_VX, LD_ST_VX (spec/44_timers_keys.md R190 to
R193). -/

namespace Sys2Proof.Machine

/-- LD Vx, DT (R190). -/
def execLdVxDt (x : Reg) (s : State) : Host.Outcome State Fault Refusal :=
  runEffect (encode (.ldVxDt x)) s fun t => .ok (t.setReg x t.DT)

/-- LD Vx, K (R191): one poll; with no key pc goes back to the instruction's own address. -/
def execLdVxK (x : Reg) (s : State) : Host.Outcome State Fault Refusal :=
  runEffect (encode (.ldVxK x)) s fun t => .ok (match t.pollAnswer with
    | none => t.requestPoll.retry
    | some k => t.requestPoll.setReg x (BitVec.ofNat 8 k.val))

/-- LD DT, Vx (R192). -/
def execLdDtVx (x : Reg) (s : State) : Host.Outcome State Fault Refusal :=
  runEffect (encode (.ldDtVx x)) s fun t => .ok { t with DT := t.reg x }

/-- LD ST, Vx (R193). -/
def execLdStVx (x : Reg) (s : State) : Host.Outcome State Fault Refusal :=
  runEffect (encode (.ldStVx x)) s fun t => .ok { t with ST := t.reg x }

end Sys2Proof.Machine
end

