-- ==== Sys2Proof/Machine/Cycle.lean ====
section
/-! DEFINITION. The fetch and the step port: one fetch, decode and execute (spec/20_memory.md R53; spec/30_encoding.md R85)
and the host's ports of spec/60_exceptions.md R215 to R218. -/

namespace Sys2Proof.Machine

/-- `Fetch16(a)`: big-endian; MemoryOutOfBounds with the first out-of-range byte's address, a + 1 or, when a itself is
out of range, a (R53). -/
def fetch16 (s : State) (a : Nat) : Raises Word :=
  if Config.lastAddr < a then .error (.outOfBounds a)
  else if Config.lastAddr < a + 1 then .error (.outOfBounds (a + 1))
  else .ok (wordOfBytes (s.mem.get a) (s.mem.get (a + 1)))

/-- The step port (R85, R216): a latched fault is given again and nothing is done (R207); a fetch fault comes before
InvalidOpcode, which comes before the instruction's own checks (R208). -/
def stepPort (s : State) : Host.Outcome State Fault Refusal :=
  match s.fault with
  | some r => .fault (.latched r)
  | none =>
    match fetch16 s s.pc.toNat with
    | .error r => .next (s.takeFault s none r)
    | .ok op =>
      match decodeWord op with
      | none => .next (s.takeFault s (some op) { kind := .invalidOpcode, addr := none })
      | some i => exec i s

/-- A step of a run: the ticks that fell since the step before, freely many, and then the step port (R213).
notes/assumptions/3. -/
def runStep (s : State) : Host.Outcome State Fault Refusal := stepPort s.betweenSteps

/-- What the host may ask of the core (R215, the first three rows). -/
inductive HostRequest where
  | step
  | tick
  | load (image : List Byte)
  deriving DecidableEq, Repr

/-- The core's part in one request of the host (R216 to R218): with it a run under a schedule of the host's own choosing
can be written, ticks between steps and after a fault included (R213). -/
def serve (q : HostRequest) (s : State) : Host.Outcome State Fault Refusal :=
  match q with
  | .step => stepPort s
  | .tick => .next s.tick
  | .load image =>
    match s.load image with
    | some t => .next t
    | none => .refused (.imageTooLarge image.length)

/-- The schedule of requests served in order, up to the first that gives no next state. -/
def serveAll : List HostRequest → State → Host.Outcome State Fault Refusal
  | [], s => .next s
  | q :: qs, s =>
    match serve q s with
    | .next t => serveAll qs t
    | .fault r => .fault r
    | .refused r => .refused r

/-- An opcode stored at an address, high byte first (R54). -/
def State.storeOpcode (s : State) (a : Nat) (op : Word) : State :=
  { s with mem := (s.mem.set a op.hiByte).set (a + 1) op.loByte }

/-- The state made ready to fetch: no latched fault, and pc where two bytes can be fetched. notes/assumptions/19. -/
def State.readyToFetch (s : State) : State :=
  { s with fault := none, pc := if Config.lastAddr < s.pc.toNat + 1 then BitVec.ofNat 16 Config.loadBase else s.pc }

end Sys2Proof.Machine
end

