-- ==== Sys2Proof/Machine/Step.lean ====
section
/-! DEFINITION. The step of a run, and the placing of one instruction where the next step fetches it. -/

namespace Sys2Proof.Machine

/-- One step of a run (spec/30_encoding.md R85; spec/60_exceptions.md R213). -/
def step (s : State) : Host.Outcome State Fault Refusal := runStep s

/-- `s` with the instruction word stored where `step` fetches next. notes/assumptions/19. -/
def State.withFetchWord (s : State) (nbits w : Nat) : State :=
  s.readyToFetch.storeOpcode s.readyToFetch.pc.toNat (tableWord nbits w)

end Sys2Proof.Machine
end

