-- ==== Sys2Proof/Safety.lean ====
section
/-! DEFINITION. The terms in which claims about the machine are stated: a safe state, the invariant of every reachable
state, the outcome of a rule's effect, a self-loop. -/

namespace Sys2Proof.Machine

/-- A state of a run that no fault has ended: a faulted state is never a successful end (spec/60_exceptions.md R207). -/
abbrev State.running (s : State) : Prop := s.fault = none

/-- What a fault record of a step must look like (R200, R206): only a fetch fault, which is a MemoryOutOfBounds, has no
opcode; exactly MemoryOutOfBounds has an address, and it lies above 0xFFF; the step fetched from inside memory. -/
structure FaultRecord.Legal (r : FaultRecord) : Prop where
  opcode : r.opcode = none → r.kind = .memoryOutOfBounds
  address : r.addr ≠ none ↔ r.kind = .memoryOutOfBounds
  outOfRange : ∀ a, r.addr = some a → Config.lastAddr < a.toNat
  pc : r.pc.toNat ≤ Config.lastAddr

/-- The legal values of spec/10_state.md R24, R25, R28, R35 and the canonical form of memory. The bound on sp (R30) is its
type's. -/
structure State.Inv (s : State) : Prop where
  memory : s.mem.wf = true
  pc : s.pc.toNat ≤ Config.lastAddr
  index : s.I.toNat ≤ Config.lastAddr
  slots : ∀ j : Fin 16, s.stack[j.val].toNat ≤ 0x1000
  pending : ∀ j : Fin 16, j.val < s.sp.val → 2 ≤ s.stack[j.val].toNat
  record : ∀ r, s.fault = some r → r.Legal

/-- `t` is what the instruction's own effect and the pc advance make of `s`: then executing the instruction answers `t`, or,
where `t`'s pc lies above 0xFFF, `s` with the fault of the final pc check, the requests made still standing
(spec/30_encoding.md R85; spec/60_exceptions.md R204 item 2, R205, R206). -/
def Lands (i : Instr) (s t : State) : Prop :=
  (t.pc.toNat ≤ 0xFFF → exec i s = .next t) ∧
  (0xFFF < t.pc.toNat → exec i s = .next
    { s with
      fault := some { kind := .memoryOutOfBounds, pc := s.pc, opcode := some (encode i), addr := some t.pc },
      draws := t.draws, io := t.io })

/-- Executing the instruction changes nothing but the fault status, which holds the record of this fault; no request is
made (spec/60_exceptions.md R205, R206). -/
def Traps (i : Instr) (s : State) (kind : FaultKind) (addr : Option Word) : Prop :=
  exec i s = .next { s with fault := some { kind := kind, pc := s.pc, opcode := some (encode i), addr := addr } }

/-- The instruction is one of the six skips and its condition holds in `s` (R121 to R126): for the key tests, on the
keypad's answer to the next request. -/
def State.takesSkip (s : State) (i : Instr) : Prop :=
  match i with
  | .seImm x kk => s.reg x = kk
  | .sneImm x kk => s.reg x ≠ kk
  | .seReg x y => s.reg x = s.reg y
  | .sneReg x y => s.reg x ≠ s.reg y
  | .skp x => s.downAnswer (s.reg x) = true
  | .sknp x => s.downAnswer (s.reg x) = false
  | .cls | .ret | .jp _ | .call _ | .ldImm _ _ | .addImm _ _ | .ldReg _ _ | .or _ _ | .and _ _ | .xor _ _ | .addReg _ _
  | .sub _ _ | .shr _ _ | .subn _ _ | .shl _ _ | .ldI _ | .jpV0 _ | .rnd _ _ | .drw _ _ _ | .ldVxDt _ | .ldVxK _
  | .ldDtVx _ | .ldStVx _ | .addIVx _ | .ldFVx _ | .ldBVx _ | .ldMemVx _ | .ldVxMem _ => False

/-- The instruction at pc is `1nnn` with nnn = pc (spec/70_reset_and_hazards.md R240). -/
def State.atSelfLoop (s : State) : Prop :=
  ∃ nnn : Addr12, fetch16 s s.pc.toNat = .ok (encode (.jp nnn)) ∧ nnn.toNat = s.pc.toNat

end Sys2Proof.Machine

namespace Sys2Proof

/-- The instructions that write VF as a flag (spec/10_state.md R22, spec/42_alu.md R153). -/
def Instr.writesFlag : Instr → Bool
  | .addReg _ _ | .sub _ _ | .shr _ _ | .subn _ _ | .shl _ _ | .drw _ _ _ => true
  | .cls | .ret | .jp _ | .call _ | .seImm _ _ | .sneImm _ _ | .seReg _ _ | .ldImm _ _ | .addImm _ _ | .ldReg _ _
  | .or _ _ | .and _ _ | .xor _ _ | .sneReg _ _ | .ldI _ | .jpV0 _ | .rnd _ _ | .skp _ | .sknp _ | .ldVxDt _ | .ldVxK _
  | .ldDtVx _ | .ldStVx _ | .addIVx _ | .ldFVx _ | .ldBVx _ | .ldMemVx _ | .ldVxMem _ => false

/-- Whether a register is an ordinary destination of the instruction, by its rule's pseudocode (`V[x] <- ...`; Fx65 loads
V0 to Vx). -/
def Instr.destination (i : Instr) (r : Reg) : Bool :=
  match i with
  | .ldImm x _ | .addImm x _ | .ldReg x _ | .or x _ | .and x _ | .xor x _ | .addReg x _ | .sub x _ | .shr x _ | .subn x _
  | .shl x _ | .rnd x _ | .ldVxDt x | .ldVxK x => r == x
  | .ldVxMem x => r.val ≤ x.val
  | .cls | .ret | .jp _ | .call _ | .seImm _ _ | .sneImm _ _ | .seReg _ _ | .sneReg _ _ | .ldI _ | .jpV0 _ | .drw _ _ _
  | .skp _ | .sknp _ | .ldDtVx _ | .ldStVx _ | .addIVx _ | .ldFVx _ | .ldBVx _ | .ldMemVx _ => false

/-- Whether the instruction reads a general register: as an operand named by its x or y field, as V0 in Bnnn, as one of V0
to Vx in Fx55; VF is never read implicitly (R23, R104, R174). -/
def Instr.source (i : Instr) (r : Reg) : Bool :=
  match i with
  | .seImm x _ | .sneImm x _ | .addImm x _ | .shr x _ | .shl x _ | .skp x | .sknp x | .ldDtVx x | .ldStVx x | .addIVx x
  | .ldFVx x | .ldBVx x => r == x
  | .seReg x y | .sneReg x y | .or x y | .and x y | .xor x y | .addReg x y | .sub x y | .subn x y | .drw x y _ =>
    r == x || r == y
  | .ldReg _ y => r == y
  | .jpV0 _ => r == .v0
  | .ldMemVx x => r.val ≤ x.val
  | .cls | .ret | .jp _ | .call _ | .ldImm _ _ | .ldI _ | .rnd _ _ | .ldVxDt _ | .ldVxK _ | .ldVxMem _ => false

end Sys2Proof

namespace Sys2Proof.Machine

/-- The condition under which an instruction's own check passes and its target lies in memory: sp for the calls and returns
(R101, R103), the computed address for the rest (R104, R171, R173 to R176). The other instructions have no check of their
own; Fx29's cannot fail under decision D11's bound (R172). -/
def State.passesOwnCheck (s : State) (i : Instr) : Prop :=
  match i with
  | .ret => 0 < s.sp.val ∧ ∀ k : Fin 16, k.val + 1 = s.sp.val → s.stack[k.val].toNat ≤ 0xFFF
  | .call _ => s.sp.val < 16
  | .jpV0 nnn => nnn.toNat + (s.reg .v0).toNat ≤ 0xFFF
  | .addIVx x => s.I.toNat + (s.reg x).toNat ≤ 0xFFF
  | .ldBVx _ => s.I.toNat + 2 ≤ 0xFFF
  | .ldMemVx x | .ldVxMem x => s.I.toNat + x.val ≤ 0xFFF
  | .drw _ _ n => n = 0 ∨ s.I.toNat + n - 1 ≤ 0xFFF
  | .cls | .jp _ | .seImm _ _ | .sneImm _ _ | .seReg _ _ | .ldImm _ _ | .addImm _ _ | .ldReg _ _ | .or _ _ | .and _ _
  | .xor _ _ | .addReg _ _ | .sub _ _ | .shr _ _ | .subn _ _ | .shl _ _ | .sneReg _ _ | .ldI _ | .rnd _ _ | .skp _
  | .sknp _ | .ldVxDt _ | .ldVxK _ | .ldDtVx _ | .ldStVx _ | .ldFVx _ => True

end Sys2Proof.Machine
end

