-- ==== Sys2Proof/Certificates/Slice0/Obligations.lean ====
section
/-! DEFINITION. The statements for the provers: `def Obligations.<Name> : Prop`. `Lands i s t` says that executing `i` in `s`
answers `t` (or, where `t`'s pc is above 0xFFF, the fault of the final pc check, which the spec places by its decision D5),
and `Traps` that it answers `s` with nothing changed but the fault record (both in Safety.lean). As `t` is written
`{ s with … }`, whatever is not named in it is unchanged: the frame. A clause `encode … &&& mask = match` is the encoding
line of the instruction's rule. -/

open Sys2Proof Sys2Proof.Machine

/-! ### Encoding and decoding -/

/-- The opcodes of the spec's examples and vectors (95 D-6 to D-16 and the families' examples), one or more of each
family, decode to the instruction they stand for. -/
def Obligations.SpecOpcodesDecode : Prop :=
  decodeWord 0x00E0 = some .cls ∧ decodeWord 0x00EE = some .ret ∧ decodeWord 0x1234 = some (.jp 0x234) ∧
  decodeWord 0x2300 = some (.call 0x300) ∧ decodeWord 0x3342 = some (.seImm 3 0x42) ∧
  decodeWord 0x4342 = some (.sneImm 3 0x42) ∧ decodeWord 0x5120 = some (.seReg 1 2) ∧
  decodeWord 0x6A2B = some (.ldImm 0xA 0x2B) ∧ decodeWord 0x7102 = some (.addImm 1 0x02) ∧
  decodeWord 0x8127 = some (.subn 1 2) ∧ decodeWord 0x812E = some (.shl 1 2) ∧ decodeWord 0x9120 = some (.sneReg 1 2) ∧
  decodeWord 0xA123 = some (.ldI 0x123) ∧ decodeWord 0xB123 = some (.jpV0 0x123) ∧
  decodeWord 0xC30F = some (.rnd 3 0x0F) ∧ decodeWord 0xD12F = some (.drw 1 2 15) ∧ decodeWord 0xE59E = some (.skp 5) ∧
  decodeWord 0xE5A1 = some (.sknp 5) ∧ decodeWord 0xF20A = some (.ldVxK 2) ∧ decodeWord 0xF265 = some (.ldVxMem 2)

/-- Decoding the two bytes of an encoded well-formed instruction, whatever bytes follow, gives back the instruction and
the bytes that follow. -/
def Obligations.DecodeOfEncodeIsTheInstruction : Prop :=
  ∀ (i : Instr) (rest : List Byte), i.wellFormed = true →
    decode ((encode i).hiByte :: (encode i).loByte :: rest) = .ok (i, rest)

/-- Every opcode that decodes is the encoding of the well-formed instruction it decodes to: no bit of it is dropped, and
no two opcodes are one instruction. -/
def Obligations.EncodeOfDecodeIsTheOpcode : Prop :=
  ∀ (op : Word) (i : Instr), decodeWord op = some i → i.wellFormed = true ∧ encode i = op

/-- An opcode whose bits under an instruction's mask are its match word decodes to that operation (the "mask" and "match" of
the instruction rules and of spec/opcode_table.json). -/
def Obligations.MaskAndMatchSelectTheOperation : Prop :=
  ∀ (op : Word) (i : Instr), op &&& i.opcodeMask = i.opcodeMatch →
    ∃ j, decodeWord op = some j ∧ j.opcodeMask = i.opcodeMask ∧ j.opcodeMatch = i.opcodeMatch

/-- R90, R201: the decoder refuses exactly the opcodes of R90's list, and the step port, having fetched one, changes nothing
but the fault status, which records InvalidOpcode, the opcode and its address; no capability is called. -/
def Obligations.IllegalOpcodesFaultAtDecode : Prop :=
  (∀ op : Word, decodeWord op = none ↔ legalOpcode op = false) ∧
  ∀ (s : State) (op : Word), s.running → fetch16 s s.pc.toNat = .ok op → legalOpcode op = false →
    stepPort s = .next { s with fault := some { kind := .invalidOpcode, pc := s.pc, opcode := some op, addr := none } }

/-! ### The step -/

/-- A step whose two bytes at pc decode to an instruction is that instruction executed at that state, the host's ticks
since the step before delivered first (`StepIsTheStepPortAfterSomeTicks` says what they do). -/
def Obligations.StepRunsTheDecodedInstruction : Prop :=
  ∀ (s : State) (i : Instr), s.running → s.pc.toNat ≤ 0xFFE →
    decodeWord (wordOfBytes (s.mem.get s.pc.toNat) (s.mem.get (s.pc.toNat + 1))) = some i →
    step s = exec i s.betweenSteps

/-- A step of a run is the step port of R85 on a state that differs from the one before by some number of ticks and by
nothing else of the block's state: the model's choice (notes/assumptions/3), after R213. -/
def Obligations.StepIsTheStepPortAfterSomeTicks : Prop :=
  ∀ s : State, step s = stepPort s.betweenSteps ∧
    s.betweenSteps = { State.tick^[Config.ticksBefore s.draws] s with draws := s.draws + 1 }

/-- R53: the fetch is big-endian, an odd address is as good as an even one, and where a byte lies above 0xFFF it raises
MemoryOutOfBounds with the first such address. That a fetch above 0xFFF names its own address is the model's reading of
R53's prose, against its pseudocode's a + 1 (notes/assumptions/7); no run reaches such a fetch. -/
def Obligations.FetchIsBigEndianAndBounded : Prop :=
  ∀ (s : State) (a : Nat),
    (a ≤ 0xFFE → ∃ op : Word, fetch16 s a = .ok op ∧
      op.toNat = 256 * (s.mem.get a).toNat + (s.mem.get (a + 1)).toNat) ∧
    (a = 0xFFF → fetch16 s a = .error (.outOfBounds 0x1000)) ∧
    (0xFFF < a → fetch16 s a = .error (.outOfBounds a))

/-- A step at pc = 0xFFF faults at the fetch: no opcode is recorded and the address is 0x1000 (R204 item 1, vector D-4). -/
def Obligations.FetchAtTheLastAddressFaults : Prop :=
  ∀ s : State, s.running → s.pc = 0xFFF →
    step s = .next { s.betweenSteps with
      fault := some { kind := .memoryOutOfBounds, pc := 0xFFF, opcode := none, addr := some 0x1000 } }

/-- R207: a step on a faulted state gives the recorded fault again and no state; a tick leaves the fault set; a reset
clears it. -/
def Obligations.FaultLatchesUntilReset : Prop :=
  ∀ (s : State) (r : FaultRecord), s.fault = some r →
    step s = .fault (.latched r) ∧ s.tick.fault = some r ∧
    ∀ (image : List Byte) (t : State), s.load image = some t → t.fault = none

/-- R205: a step that faults leaves every register, I, pc, sp, the stack, the timers and memory as they were before it
(the ticks before the step apart) and sets the fault status; the requests it has made stand. -/
def Obligations.FaultsArePrecise : Prop :=
  ∀ s t : State, s.running → step s = .next t → t.fault ≠ none →
    t = { s.betweenSteps with fault := t.fault, draws := t.draws, io := t.io } ∧ s.io <:+ t.io

/-- R206: the record of a step's fault holds the address the step fetched from, the opcode unless the fetch failed, an
address exactly for MemoryOutOfBounds, which lies above 0xFFF, and the code of R200. -/
def Obligations.FaultRecordDescribesTheStep : Prop :=
  ∀ (s t : State) (r : FaultRecord), s.Inv → s.running → step s = .next t → t.fault = some r →
    t.stepAnswer = .err r ∧ r.pc = s.pc ∧
    r.opcode = (if s.pc.toNat ≤ 0xFFE then some (wordOfBytes (s.mem.get s.pc.toNat) (s.mem.get (s.pc.toNat + 1)))
      else none) ∧
    (r.addr ≠ none ↔ r.kind = .memoryOutOfBounds) ∧ (∀ a, r.addr = some a → 0xFFF < a.toNat) ∧
    r.code = (match r.kind with
      | .invalidOpcode => 1
      | .stackOverflow => 2
      | .stackUnderflow => 3
      | .memoryOutOfBounds => 4)

/-! ### Invariants and whole-machine rules -/

/-- Every step keeps the invariant: memory in canonical form, pc and I at most 0xFFF, stack slots at most 0x1000 and the
pending ones at least 2, a fault record as R206 describes it (R24, R25, R28, R35). -/
def Obligations.StepKeepsTheInvariant : Prop :=
  ∀ s t : State, s.Inv → step s = .next t → t.Inv

/-- The state after reset meets the invariant. -/
def Obligations.ResetMeetsTheInvariant : Prop := State.reset.Inv

/-- The host's other two ports keep the invariant: a tick, and a load from any state. -/
def Obligations.TickAndLoadKeepTheInvariant : Prop :=
  (∀ s : State, s.Inv → s.tick.Inv) ∧
  ∀ (s t : State) (image : List Byte), s.load image = some t → t.Inv

/-- Every schedule of the host's requests (steps, ticks and loads, in any order and number, R213, R215) that ends in a
state keeps the invariant. -/
def Obligations.EveryScheduleKeepsTheInvariant : Prop :=
  ∀ (qs : List HostRequest) (s t : State), s.Inv → serveAll qs s = .next t → t.Inv

/-- Away from the top of memory every instruction completes, running on inside memory, exactly when its own check passes
(R202, R203, R204); where the check fails, the next state is a faulted one. -/
def Obligations.InstructionsCompleteExactlyWhenTheirCheckPasses : Prop :=
  ∀ (i : Instr) (s : State), s.running → s.pc.toNat ≤ 0xFFB →
    (s.passesOwnCheck i → ∃ t, exec i s = .next t ∧ t.running ∧ t.pc.toNat ≤ 0xFFF) ∧
    (¬ s.passesOwnCheck i → ∃ t, exec i s = .next t ∧ t.fault ≠ none)

/-- At the last address from which an instruction can be fetched, only a return, a jump, a call or an unanswered key wait
completes: every instruction that goes on to a + 2 or beyond faults (R28, R204 item 2). -/
def Obligations.SequentialInstructionsFaultAtTheTop : Prop :=
  ∀ (i : Instr) (s t : State), s.running → s.pc = 0xFFE → exec i s = .next t → t.running →
    i = .ret ∨ (∃ nnn, i = .jp nnn) ∨ (∃ nnn, i = .call nnn) ∨ (∃ nnn, i = .jpV0 nnn) ∨
    ((∃ x, i = .ldVxK x) ∧ t.pc = s.pc)

/-- A register that an instruction does not read (R23 for VF) has no influence: with any other byte in it before, the
instruction leaves the same state but for that register. For SKP, SKNP, LD_VX_K, RND and DRW this rests on the model's choice
that the two runs, with the same draws, log and request, get the same answer (notes/assumptions/2, unsafe for claims that
compare two runs): it says that the core adds no difference of its own. -/
def Obligations.UnreadRegistersHaveNoInfluence : Prop :=
  ∀ (i : Instr) (s t t' : State) (r : Reg) (b : Byte), i.source r = false → exec i s = .next t →
    exec i (s.setReg r b) = .next t' → t'.setReg r 0 = t.setReg r 0

/-- R222: CLS, SKP, SKNP, LD_VX_K and RND make exactly one request, DRW exactly one unless its range check faults, every
other instruction none. -/
def Obligations.RequestsPerInstruction : Prop :=
  ∀ (i : Instr) (s t : State), exec i s = .next t →
    (match i with
      | .cls | .skp _ | .sknp _ | .ldVxK _ | .rnd _ _ => ∃ e, t.io = e :: s.io
      | .drw _ _ n => if 0 < n ∧ 0xFFF < s.I.toNat + n - 1 then t.io = s.io else ∃ e, t.io = e :: s.io
      | _ => t.io = s.io)

/-- The "written by" column of R35, with R29, R34 and R50: no other instruction changes I, sp, a stack slot, a timer or a
byte of memory. -/
def Obligations.SpecialStateHasNoOtherWriter : Prop :=
  ∀ (i : Instr) (s t : State), exec i s = .next t →
    (t.I ≠ s.I → (∃ nnn, i = .ldI nnn) ∨ (∃ x, i = .addIVx x) ∨ ∃ x, i = .ldFVx x) ∧
    (t.sp ≠ s.sp → i = .ret ∨ ∃ nnn, i = .call nnn) ∧
    (t.stack ≠ s.stack → ∃ nnn, i = .call nnn) ∧
    (t.DT ≠ s.DT → ∃ x, i = .ldDtVx x) ∧
    (t.ST ≠ s.ST → ∃ x, i = .ldStVx x) ∧
    (∀ a, t.mem.get a ≠ s.mem.get a → (∃ x, i = .ldBVx x) ∨ ∃ x, i = .ldMemVx x)

/-- R22: the flag-writing instructions leave VF at exactly 0 or 1, and any other instruction that changes VF names it as an
ordinary destination. -/
def Obligations.VFIsAFlagOrAnOrdinaryDestination : Prop :=
  ∀ (i : Instr) (s t : State), exec i s = .next t → t.running →
    (i.writesFlag = true → t.reg .vF = 0 ∨ t.reg .vF = 1) ∧
    (i.writesFlag = false → i.destination .vF = false → t.reg .vF = s.reg .vF)

/-- A general register other than VF changes only where the instruction names it as a destination. -/
def Obligations.GeneralRegistersChangeOnlyAsDestinations : Prop :=
  ∀ (i : Instr) (s t : State) (r : Reg), exec i s = .next t → r ≠ .vF → i.destination r = false → t.reg r = s.reg r

/-! ### Reset and load -/

/-- R230: every register, I, sp, every stack slot and both timers are 0 after reset, pc is 0x200 and no fault is set. The
value 0x200 is the spec's decision D12 (notes/assumptions/5) and I = 0 its decision D17 (notes/assumptions/18). -/
def Obligations.ResetState : Prop :=
  (∀ r : Reg, State.reset.reg r = 0) ∧ State.reset.I = 0 ∧ State.reset.pc = 0x200 ∧ State.reset.sp = 0 ∧
  (∀ j : Fin 16, State.reset.stack[j.val] = 0) ∧ State.reset.DT = 0 ∧ State.reset.ST = 0 ∧ State.reset.fault = none

/-- R231, R233, R235: a load from any state, a faulted one too, of an image that fits gives the reset state with the font
table at FONT_BASE, the image at 0x200 and every other byte zero; an image that does not fit is refused. The address
0x200, and with it the bound 3584, is the spec's decision D12 (notes/assumptions/5). -/
def Obligations.LoadBuildsTheResetState : Prop :=
  ∀ (s : State) (image : List Byte),
    (image.length ≤ 3584 → ∃ m : Memory,
      serve (.load image) s = .next { State.reset with mem := m, draws := s.draws, io := s.io } ∧
      ∀ a : Nat, m.get a =
        if 0x200 ≤ a ∧ a < 0x200 + image.length then image.getD (a - 0x200) 0
        else if h : Config.fontBase.val ≤ a ∧ a - Config.fontBase.val < 80 then
          Config.fontData ⟨a - Config.fontBase.val, h.2⟩
        else 0) ∧
    (3584 < image.length → serve (.load image) s = .refused (.imageTooLarge image.length))

/-! ### Control transfer -/

/-- R100: CLS sends one clear request and changes nothing but pc; at 0xFFE the request stands and the step faults. -/
def Obligations.ClsSendsOneClear : Prop :=
  encode .cls &&& 0xFFFF = 0x00E0 ∧ ∀ s : State, Lands .cls s { s with pc := s.pc + 2, io := .clear :: s.io }

/-- R101: RET pops the top slot into pc and keeps the slot; on an empty stack it raises StackUnderflow. That the slot keeps
its value is the spec's decision D27 (notes/assumptions/21). -/
def Obligations.RetPopsTheReturnAddress : Prop :=
  encode .ret &&& 0xFFFF = 0x00EE ∧ ∀ s : State,
    (∀ k : Fin 16, s.sp = k.succ → Lands .ret s { s with sp := k.castSucc, pc := s.stack[k.val] }) ∧
    (s.sp = 0 → Traps .ret s .stackUnderflow none)

/-- R102: JP sets pc to nnn and raises nothing. -/
def Obligations.JpSetsPc : Prop :=
  ∀ (s : State) (nnn : Addr12), encode (.jp nnn) &&& 0xF000 = 0x1000 ∧
    exec (.jp nnn) s = .next { s with pc := BitVec.ofNat 16 nnn.toNat }

/-- R103: CALL pushes the address of the next instruction and jumps; on a full stack it raises StackOverflow. -/
def Obligations.CallPushesAndJumps : Prop :=
  ∀ (s : State) (nnn : Addr12), encode (.call nnn) &&& 0xF000 = 0x2000 ∧
    (∀ k : Fin 16, s.sp = k.castSucc → exec (.call nnn) s = .next
      { s with stack := s.stack.set k.val (s.pc + 2), sp := k.succ, pc := BitVec.ofNat 16 nnn.toNat }) ∧
    (s.sp = 16 → Traps (.call nnn) s .stackOverflow none)

/-- R104: JP_V0 sets pc to nnn + V0, or faults with that sum where it exceeds 0xFFF. -/
def Obligations.JpV0AddsV0 : Prop :=
  ∀ (s : State) (nnn : Addr12), encode (.jpV0 nnn) &&& 0xF000 = 0xB000 ∧
    (nnn.toNat + (s.reg 0).toNat ≤ 0xFFF → exec (.jpV0 nnn) s = .next
      { s with pc := BitVec.ofNat 16 (nnn.toNat + (s.reg 0).toNat) }) ∧
    (0xFFF < nnn.toNat + (s.reg 0).toNat → Traps (.jpV0 nnn) s .memoryOutOfBounds
      (some (BitVec.ofNat 16 (nnn.toNat + (s.reg 0).toNat))))

/-- R107: after a CALL, a RET reached with sp and the pushed slot as the CALL left them brings pc to the address after
the CALL and sp to its value before it. -/
def Obligations.ReturnUndoesCall : Prop :=
  ∀ (s u : State) (nnn : Addr12) (k : Fin 16), s.sp = k.castSucc → s.pc.toNat ≤ 0xFFD →
    ∃ t, exec (.call nnn) s = .next t ∧ t.pc = BitVec.ofNat 16 nnn.toNat ∧
      (u.sp = t.sp → u.stack[k.val] = t.stack[k.val] →
        ∃ v, exec .ret u = .next v ∧ v.pc = s.pc + 2 ∧ v.sp = s.sp)

/-- A self-loop (R240): the step changes nothing but the timers, by the ticks before it, and the next state is at the same
self-loop. -/
def Obligations.SelfLoopChangesOnlyTheTimers : Prop :=
  ∀ s : State, s.running → s.atSelfLoop → step s = .next s.betweenSteps ∧ s.betweenSteps.atSelfLoop

/-! ### Skips -/

/-- R121 to R124 with R120: each comparison skip leaves pc at a + 4 when its condition holds, at a + 2 when not, and
changes nothing else. -/
def Obligations.ComparisonSkips : Prop :=
  ∀ (s : State) (x y : Reg) (kk : Byte),
    (encode (.seImm x kk) &&& 0xF000 = 0x3000 ∧
      Lands (.seImm x kk) s { s with pc := if s.reg x = kk then s.pc + 4 else s.pc + 2 }) ∧
    (encode (.sneImm x kk) &&& 0xF000 = 0x4000 ∧
      Lands (.sneImm x kk) s { s with pc := if s.reg x = kk then s.pc + 2 else s.pc + 4 }) ∧
    (encode (.seReg x y) &&& 0xF00F = 0x5000 ∧
      Lands (.seReg x y) s { s with pc := if s.reg x = s.reg y then s.pc + 4 else s.pc + 2 }) ∧
    (encode (.sneReg x y) &&& 0xF00F = 0x9000 ∧
      Lands (.sneReg x y) s { s with pc := if s.reg x = s.reg y then s.pc + 2 else s.pc + 4 })

/-- R125, R126: SKP and SKNP ask the keypad once for key Vx, all 8 bits of it, and skip when the answer, whatever it is,
is down, respectively up. -/
def Obligations.KeySkips : Prop :=
  ∀ (s : State) (x : Reg),
    let down := Config.keyDown s.draws s.io (s.reg x)
    encode (.skp x) &&& 0xF0FF = 0xE09E ∧ encode (.sknp x) &&& 0xF0FF = 0xE0A1 ∧
    Lands (.skp x) s { s with
      pc := if down = true then s.pc + 4 else s.pc + 2, draws := s.draws + 1, io := .isDown (s.reg x) down :: s.io } ∧
    Lands (.sknp x) s { s with
      pc := if down = true then s.pc + 2 else s.pc + 4, draws := s.draws + 1, io := .isDown (s.reg x) down :: s.io }

/-- R120: a skip taken never looks at the word it skips. For each of the six skips, where its condition holds, a step at a
goes to a + 4 without a fault and leaves memory alone, whatever the bytes at a + 2 and a + 3 are, an invalid opcode
included. The spec marks this as derived from the source's definition of a skip; the condition of a key test is the free
answer it gets, after the ticks before the step (notes/assumptions/2 and 3). -/
def Obligations.SkippedWordIsNeverDecoded : Prop :=
  ∀ (s : State) (i : Instr) (b c : Byte), s.Inv → s.running → s.pc.toNat ≤ 0xFFB →
    fetch16 s s.pc.toNat = .ok (encode i) → s.betweenSteps.takesSkip i →
    let m := (s.mem.set (s.pc.toNat + 2) b).set (s.pc.toNat + 3) c
    ∃ t, step { s with mem := m } = .next t ∧ t.pc = s.pc + 4 ∧ t.running ∧ t.mem = m

/-! ### Arithmetic and logic. A register file with x and then VF written says that the flag is written last. -/

/-- R141, R142, R143: the loads and the addition of an immediate; VF is written only as an ordinary destination. -/
def Obligations.LoadsAndAddImmediate : Prop :=
  ∀ (s : State) (x y : Reg) (kk : Byte),
    let wrote (b : Byte) : State := { s with V := s.V.set x.val b, pc := s.pc + 2 }
    (encode (.ldImm x kk) &&& 0xF000 = 0x6000 ∧ Lands (.ldImm x kk) s (wrote kk)) ∧
    (encode (.addImm x kk) &&& 0xF000 = 0x7000 ∧
      Lands (.addImm x kk) s (wrote (BitVec.ofNat 8 (((s.reg x).toNat + kk.toNat) % 256)))) ∧
    (encode (.ldReg x y) &&& 0xF00F = 0x8000 ∧ Lands (.ldReg x y) s (wrote (s.reg y)))

/-- R144, R145, R146: the bitwise operations. VF is unchanged unless x = 0xF: the spec's decision D8
(notes/assumptions/11). -/
def Obligations.BitwiseOperations : Prop :=
  ∀ (s : State) (x y : Reg),
    let wrote (b : Byte) : State := { s with V := s.V.set x.val b, pc := s.pc + 2 }
    (encode (.or x y) &&& 0xF00F = 0x8001 ∧ Lands (.or x y) s (wrote (s.reg x ||| s.reg y))) ∧
    (encode (.and x y) &&& 0xF00F = 0x8002 ∧ Lands (.and x y) s (wrote (s.reg x &&& s.reg y))) ∧
    (encode (.xor x y) &&& 0xF00F = 0x8003 ∧ Lands (.xor x y) s (wrote (s.reg x ^^^ s.reg y)))

/-- R147: Vx becomes the sum mod 256, then VF 1 exactly if the sum exceeds 255. For x = 0xF, that VF
is written last is the spec's decision D7 on its conflict C2 (notes/assumptions/10). -/
def Obligations.AddWithCarry : Prop :=
  ∀ (s : State) (x y : Reg),
    let sum := (s.reg x).toNat + (s.reg y).toNat
    encode (.addReg x y) &&& 0xF00F = 0x8004 ∧ Lands (.addReg x y) s { s with
      V := (s.V.set x.val (BitVec.ofNat 8 (sum % 256))).set 15 (if 255 < sum then 1 else 0), pc := s.pc + 2 }

/-- R148, R150: the difference mod 256, then VF 1 exactly if the minuend is strictly greater. For x = 0xF, that VF
is written last is the spec's decision D7 on its conflict C2 (notes/assumptions/10). -/
def Obligations.SubtractWithBorrow : Prop :=
  ∀ (s : State) (x y : Reg),
    let a := (s.reg x).toNat
    let b := (s.reg y).toNat
    encode (.sub x y) &&& 0xF00F = 0x8005 ∧ encode (.subn x y) &&& 0xF00F = 0x8007 ∧
    Lands (.sub x y) s { s with
      V := (s.V.set x.val (BitVec.ofNat 8 ((a + 256 - b) % 256))).set 15 (if b < a then 1 else 0), pc := s.pc + 2 } ∧
    Lands (.subn x y) s { s with
      V := (s.V.set x.val (BitVec.ofNat 8 ((b + 256 - a) % 256))).set 15 (if a < b then 1 else 0), pc := s.pc + 2 }

/-- R149, R151: Vx shifted by one bit, then VF the bit shifted out of the old Vx; the y field, whatever it is, changes
nothing. For x = 0xF, that VF is written last is the spec's decision D7 on its conflict C2 (notes/assumptions/10). -/
def Obligations.ShiftsMoveOutOneBit : Prop :=
  ∀ (s : State) (x y : Reg),
    let a := (s.reg x).toNat
    encode (.shr x y) &&& 0xF00F = 0x8006 ∧ encode (.shl x y) &&& 0xF00F = 0x800E ∧
    Lands (.shr x y) s { s with
      V := (s.V.set x.val (BitVec.ofNat 8 (a / 2))).set 15 (BitVec.ofNat 8 (a % 2)), pc := s.pc + 2 } ∧
    Lands (.shl x y) s { s with
      V := (s.V.set x.val (BitVec.ofNat 8 (a * 2 % 256))).set 15 (BitVec.ofNat 8 (a / 128)), pc := s.pc + 2 }

/-- R152: RND makes one request and writes the byte answered, whatever it is, masked with kk: with kk = 0 that is 0, and
with kk = 0x0F it is below 16. -/
def Obligations.RandomIsMasked : Prop :=
  ∀ (s : State) (x : Reg) (kk : Byte),
    let r := Config.randomByte s.draws s.io
    encode (.rnd x kk) &&& 0xF000 = 0xC000 ∧
    Lands (.rnd x kk) s { s with
      V := s.V.set x.val (r &&& kk), pc := s.pc + 2, draws := s.draws + 1, io := .nextByte r :: s.io } ∧
    (kk = 0 → r &&& kk = 0) ∧ (kk = 0x0F → (r &&& kk).toNat < 16)

/-! ### The index register and memory -/

/-- R170: LD_I. -/
def Obligations.LoadIndex : Prop :=
  ∀ (s : State) (nnn : Addr12), encode (.ldI nnn) &&& 0xF000 = 0xA000 ∧
    Lands (.ldI nnn) s { s with I := BitVec.ofNat 16 nnn.toNat, pc := s.pc + 2 }

/-- R171: I + Vx goes to I, VF stays, and a sum above 0xFFF faults with the sum and leaves I. -/
def Obligations.AddToIndex : Prop :=
  ∀ (s : State) (x : Reg),
    let sum := s.I.toNat + (s.reg x).toNat
    encode (.addIVx x) &&& 0xF0FF = 0xF01E ∧
    (sum ≤ 0xFFF → Lands (.addIVx x) s { s with I := BitVec.ofNat 16 sum, pc := s.pc + 2 }) ∧
    (0xFFF < sum → Traps (.addIVx x) s .memoryOutOfBounds (some (BitVec.ofNat 16 sum)))

/-- R172 with decision D11's bound on FONT_BASE: I becomes FONT_BASE + 5 * Vx, all 8 bits of Vx, and this never faults by
itself. -/
def Obligations.FontAddress : Prop :=
  ∀ (s : State) (x : Reg), encode (.ldFVx x) &&& 0xF0FF = 0xF029 ∧
    Config.fontBase.val + 5 * (s.reg x).toNat ≤ 0xFFF ∧
    Lands (.ldFVx x) s { s with I := BitVec.ofNat 16 (Config.fontBase.val + 5 * (s.reg x).toNat), pc := s.pc + 2 }

/-- R173: the three decimal digits of Vx at I, I + 1, I + 2 and no other byte changed; a range past 0xFFF faults with
I + 2 and stores nothing. That the record names the range's last address is the model's reading (notes/assumptions/6). -/
def Obligations.BcdStore : Prop :=
  ∀ (s : State) (x : Reg), s.mem.wf = true → encode (.ldBVx x) &&& 0xF0FF = 0xF033 ∧
    (s.I.toNat + 2 ≤ 0xFFF → ∃ m : Memory, Lands (.ldBVx x) s { s with mem := m, pc := s.pc + 2 } ∧
      (m.get s.I.toNat).toNat = (s.reg x).toNat / 100 ∧
      (m.get (s.I.toNat + 1)).toNat = (s.reg x).toNat / 10 % 10 ∧
      (m.get (s.I.toNat + 2)).toNat = (s.reg x).toNat % 10 ∧
      ∀ a, (a < s.I.toNat ∨ s.I.toNat + 2 < a) → m.get a = s.mem.get a) ∧
    (0xFFF < s.I.toNat + 2 → Traps (.ldBVx x) s .memoryOutOfBounds (some (BitVec.ofNat 16 (s.I.toNat + 2))))

/-- R174: V0 to Vx at I to I + x and no other byte changed, I unchanged; a range past 0xFFF faults with I + x and stores
nothing. That I is unchanged is the spec's decision D9 (notes/assumptions/12); that the record names the range's last
address is the model's reading (notes/assumptions/6). -/
def Obligations.RegisterDump : Prop :=
  ∀ (s : State) (x : Reg), s.mem.wf = true → encode (.ldMemVx x) &&& 0xF0FF = 0xF055 ∧
    (s.I.toNat + x.val ≤ 0xFFF → ∃ m : Memory, Lands (.ldMemVx x) s { s with mem := m, pc := s.pc + 2 } ∧
      (∀ r : Reg, r ≤ x → m.get (s.I.toNat + r.val) = s.reg r) ∧
      ∀ a, (a < s.I.toNat ∨ s.I.toNat + x.val < a) → m.get a = s.mem.get a) ∧
    (0xFFF < s.I.toNat + x.val → Traps (.ldMemVx x) s .memoryOutOfBounds (some (BitVec.ofNat 16 (s.I.toNat + x.val))))

/-- R175: V0 to Vx loaded from I to I + x, the registers above x, I and memory unchanged; a range past 0xFFF faults with
I + x and writes no register. That I is unchanged is the spec's decision D9 (notes/assumptions/12); that the record names
the range's last address is the model's reading (notes/assumptions/6). -/
def Obligations.RegisterLoad : Prop :=
  ∀ (s : State) (x : Reg), encode (.ldVxMem x) &&& 0xF0FF = 0xF065 ∧
    (s.I.toNat + x.val ≤ 0xFFF → ∃ V : Vector Byte 16, Lands (.ldVxMem x) s { s with V := V, pc := s.pc + 2 } ∧
      ∀ r : Reg, V[r.val] = if r ≤ x then s.mem.get (s.I.toNat + r.val) else s.reg r) ∧
    (0xFFF < s.I.toNat + x.val → Traps (.ldVxMem x) s .memoryOutOfBounds (some (BitVec.ofNat 16 (s.I.toNat + x.val))))

/-- The round trip of R175's quotation: V0 to Vx dumped, then loaded into any register bank with the same I and memory,
are the original V0 to Vx, for every x. -/
def Obligations.DumpThenLoadRestores : Prop :=
  ∀ (s u : State) (x : Reg), s.mem.wf = true → s.I.toNat + x.val ≤ 0xFFF → s.pc.toNat ≤ 0xFFD →
    u.pc.toNat ≤ 0xFFD → u.I = s.I →
    ∃ t, exec (.ldMemVx x) s = .next t ∧
      (u.mem = t.mem → ∃ v, exec (.ldVxMem x) u = .next v ∧ ∀ r : Reg, r ≤ x → v.reg r = s.reg r)

/-- R64: two bytes that a register dump has stored are what the next fetch at their address reads. -/
def Obligations.StoredBytesAreFetched : Prop :=
  ∀ (s : State) (x j k : Reg), s.mem.wf = true → s.I.toNat + x.val ≤ 0xFFF → s.pc.toNat ≤ 0xFFD →
    j.val + 1 = k.val → k ≤ x →
    ∃ t, exec (.ldMemVx x) s = .next t ∧
      fetch16 t (s.I.toNat + j.val) = .ok (wordOfBytes (s.reg j) (s.reg k))

/-- R176: DRW sends one draw request with Vx, Vy and the n bytes at I, and then VF becomes the display's answer, whatever
it is; with n = 0 the sprite is empty and nothing is checked; a range past 0xFFF faults with I + n - 1 and sends nothing.
The case n = 0 is the spec's decision D13 (notes/assumptions/14); that the record names the range's last address is the
model's reading (notes/assumptions/6). -/
def Obligations.DrawSprite : Prop :=
  ∀ (s : State) (x y : Reg) (n : Nat),
    let sprite := (List.range n).map fun k => s.mem.get (s.I.toNat + k)
    let collided := Config.collided s.draws s.io (s.reg x) (s.reg y) sprite
    encode (.drw x y n) &&& 0xF000 = 0xD000 ∧
    (n = 0 ∨ s.I.toNat + n - 1 ≤ 0xFFF → Lands (.drw x y n) s { s with
      V := s.V.set 15 (if collided = true then 1 else 0), pc := s.pc + 2, draws := s.draws + 1,
      io := .draw (s.reg x) (s.reg y) sprite collided :: s.io }) ∧
    (0 < n ∧ 0xFFF < s.I.toNat + n - 1 →
      Traps (.drw x y n) s .memoryOutOfBounds (some (BitVec.ofNat 16 (s.I.toNat + n - 1))))

/-! ### Timers and the key wait -/

/-- R190, R192, R193: the delay timer read into Vx, and each timer set from Vx. -/
def Obligations.TimerAccess : Prop :=
  ∀ (s : State) (x : Reg), encode (.ldVxDt x) &&& 0xF0FF = 0xF007 ∧ encode (.ldDtVx x) &&& 0xF0FF = 0xF015 ∧
    encode (.ldStVx x) &&& 0xF0FF = 0xF018 ∧
    Lands (.ldVxDt x) s { s with V := s.V.set x.val s.DT, pc := s.pc + 2 } ∧
    Lands (.ldDtVx x) s { s with DT := s.reg x, pc := s.pc + 2 } ∧
    Lands (.ldStVx x) s { s with ST := s.reg x, pc := s.pc + 2 }

/-- R191: one poll; with no key pc is the instruction's own address again and nothing else changes, with a key Vx becomes
its number and pc goes on. Whatever the keypad answers, the instruction lands. -/
def Obligations.KeyWait : Prop :=
  ∀ (s : State) (x : Reg),
    let answer := Config.polledKey s.draws s.io
    let polled : State := { s with draws := s.draws + 1, io := .pollPressed answer :: s.io }
    encode (.ldVxK x) &&& 0xF0FF = 0xF00A ∧
    Lands (.ldVxK x) s (match answer with
      | none => polled
      | some k => { polled with V := s.V.set x.val (BitVec.ofNat 8 k.val), pc := s.pc + 2 })

/-- R211: a tick takes 1 from each timer that is not 0 and changes nothing else: the spec's decision D16
(notes/assumptions/17). -/
def Obligations.TickDecrementsNonzeroTimers : Prop :=
  ∀ s : State, s.tick = { s with
    DT := if 0 < s.DT.toNat then BitVec.ofNat 8 (s.DT.toNat - 1) else s.DT
    ST := if 0 < s.ST.toNat then BitVec.ofNat 8 (s.ST.toNat - 1) else s.ST }

/-- R238: a delay timer set to v reads v minus the number of ticks delivered in between, stopping at 0, in every schedule
of ticks. The stop at 0 is the spec's decision D16 (notes/assumptions/17). -/
def Obligations.DelayTimerCountsDown : Prop :=
  ∀ (s : State) (n : Nat), (State.tick^[n] s).DT.toNat = s.DT.toNat - n ∧ (State.tick^[n] s).ST.toNat = s.ST.toNat - n
end

