-- ==== Sys2Proof/Laws/State.lean ====
section
/-! SUPPORT. One lemma per field per update of the state: what the field holds after the update. -/

namespace Sys2Proof.Machine

/-! ### `State.advance` -/

@[simp] theorem State.advance_V (s : State) : s.advance.V = s.V := rfl
@[simp] theorem State.advance_I (s : State) : s.advance.I = s.I := rfl
@[simp] theorem State.advance_pc (s : State) : s.advance.pc = s.pc + 2 := rfl
@[simp] theorem State.advance_sp (s : State) : s.advance.sp = s.sp := rfl
@[simp] theorem State.advance_stack (s : State) : s.advance.stack = s.stack := rfl
@[simp] theorem State.advance_DT (s : State) : s.advance.DT = s.DT := rfl
@[simp] theorem State.advance_ST (s : State) : s.advance.ST = s.ST := rfl
@[simp] theorem State.advance_mem (s : State) : s.advance.mem = s.mem := rfl
@[simp] theorem State.advance_fault (s : State) : s.advance.fault = s.fault := rfl
@[simp] theorem State.advance_draws (s : State) : s.advance.draws = s.draws := rfl
@[simp] theorem State.advance_io (s : State) : s.advance.io = s.io := rfl

/-! ### `State.setPc` -/

@[simp] theorem State.setPc_V (s : State) (w : Word) : (s.setPc w).V = s.V := rfl
@[simp] theorem State.setPc_I (s : State) (w : Word) : (s.setPc w).I = s.I := rfl
@[simp] theorem State.setPc_pc (s : State) (w : Word) : (s.setPc w).pc = w := rfl
@[simp] theorem State.setPc_sp (s : State) (w : Word) : (s.setPc w).sp = s.sp := rfl
@[simp] theorem State.setPc_stack (s : State) (w : Word) : (s.setPc w).stack = s.stack := rfl
@[simp] theorem State.setPc_DT (s : State) (w : Word) : (s.setPc w).DT = s.DT := rfl
@[simp] theorem State.setPc_ST (s : State) (w : Word) : (s.setPc w).ST = s.ST := rfl
@[simp] theorem State.setPc_mem (s : State) (w : Word) : (s.setPc w).mem = s.mem := rfl
@[simp] theorem State.setPc_fault (s : State) (w : Word) : (s.setPc w).fault = s.fault := rfl
@[simp] theorem State.setPc_draws (s : State) (w : Word) : (s.setPc w).draws = s.draws := rfl
@[simp] theorem State.setPc_io (s : State) (w : Word) : (s.setPc w).io = s.io := rfl

/-! ### `State.skip` -/

@[simp] theorem State.skip_V (s : State) : s.skip.V = s.V := rfl
@[simp] theorem State.skip_I (s : State) : s.skip.I = s.I := rfl
@[simp] theorem State.skip_pc (s : State) : s.skip.pc = s.pc + 2 := rfl
@[simp] theorem State.skip_sp (s : State) : s.skip.sp = s.sp := rfl
@[simp] theorem State.skip_stack (s : State) : s.skip.stack = s.stack := rfl
@[simp] theorem State.skip_DT (s : State) : s.skip.DT = s.DT := rfl
@[simp] theorem State.skip_ST (s : State) : s.skip.ST = s.ST := rfl
@[simp] theorem State.skip_mem (s : State) : s.skip.mem = s.mem := rfl
@[simp] theorem State.skip_fault (s : State) : s.skip.fault = s.fault := rfl
@[simp] theorem State.skip_draws (s : State) : s.skip.draws = s.draws := rfl
@[simp] theorem State.skip_io (s : State) : s.skip.io = s.io := rfl

/-! ### `State.skipIf` -/

@[simp] theorem State.skipIf_V (s : State) (c : Bool) : (s.skipIf c).V = s.V := rfl
@[simp] theorem State.skipIf_I (s : State) (c : Bool) : (s.skipIf c).I = s.I := rfl
@[simp] theorem State.skipIf_pc (s : State) (c : Bool) : (s.skipIf c).pc = if c then s.pc + 2 else s.pc := rfl
@[simp] theorem State.skipIf_sp (s : State) (c : Bool) : (s.skipIf c).sp = s.sp := rfl
@[simp] theorem State.skipIf_stack (s : State) (c : Bool) : (s.skipIf c).stack = s.stack := rfl
@[simp] theorem State.skipIf_DT (s : State) (c : Bool) : (s.skipIf c).DT = s.DT := rfl
@[simp] theorem State.skipIf_ST (s : State) (c : Bool) : (s.skipIf c).ST = s.ST := rfl
@[simp] theorem State.skipIf_mem (s : State) (c : Bool) : (s.skipIf c).mem = s.mem := rfl
@[simp] theorem State.skipIf_fault (s : State) (c : Bool) : (s.skipIf c).fault = s.fault := rfl
@[simp] theorem State.skipIf_draws (s : State) (c : Bool) : (s.skipIf c).draws = s.draws := rfl
@[simp] theorem State.skipIf_io (s : State) (c : Bool) : (s.skipIf c).io = s.io := rfl

/-! ### `State.retry` -/

@[simp] theorem State.retry_V (s : State) : s.retry.V = s.V := rfl
@[simp] theorem State.retry_I (s : State) : s.retry.I = s.I := rfl
@[simp] theorem State.retry_pc (s : State) : s.retry.pc = s.pc - 2 := rfl
@[simp] theorem State.retry_sp (s : State) : s.retry.sp = s.sp := rfl
@[simp] theorem State.retry_stack (s : State) : s.retry.stack = s.stack := rfl
@[simp] theorem State.retry_DT (s : State) : s.retry.DT = s.DT := rfl
@[simp] theorem State.retry_ST (s : State) : s.retry.ST = s.ST := rfl
@[simp] theorem State.retry_mem (s : State) : s.retry.mem = s.mem := rfl
@[simp] theorem State.retry_fault (s : State) : s.retry.fault = s.fault := rfl
@[simp] theorem State.retry_draws (s : State) : s.retry.draws = s.draws := rfl
@[simp] theorem State.retry_io (s : State) : s.retry.io = s.io := rfl

/-! ### `State.requestClear` -/

@[simp] theorem State.requestClear_V (s : State) : s.requestClear.V = s.V := rfl
@[simp] theorem State.requestClear_I (s : State) : s.requestClear.I = s.I := rfl
@[simp] theorem State.requestClear_pc (s : State) : s.requestClear.pc = s.pc := rfl
@[simp] theorem State.requestClear_sp (s : State) : s.requestClear.sp = s.sp := rfl
@[simp] theorem State.requestClear_stack (s : State) : s.requestClear.stack = s.stack := rfl
@[simp] theorem State.requestClear_DT (s : State) : s.requestClear.DT = s.DT := rfl
@[simp] theorem State.requestClear_ST (s : State) : s.requestClear.ST = s.ST := rfl
@[simp] theorem State.requestClear_mem (s : State) : s.requestClear.mem = s.mem := rfl
@[simp] theorem State.requestClear_fault (s : State) : s.requestClear.fault = s.fault := rfl
@[simp] theorem State.requestClear_draws (s : State) : s.requestClear.draws = s.draws := rfl
@[simp] theorem State.requestClear_io (s : State) : s.requestClear.io = .clear :: s.io := rfl

/-! ### `State.requestDraw` -/

@[simp] theorem State.requestDraw_V (s : State) (x y : Byte) (l : List Byte) : (s.requestDraw x y l).V = s.V := rfl
@[simp] theorem State.requestDraw_I (s : State) (x y : Byte) (l : List Byte) : (s.requestDraw x y l).I = s.I := rfl
@[simp] theorem State.requestDraw_pc (s : State) (x y : Byte) (l : List Byte) : (s.requestDraw x y l).pc = s.pc := rfl
@[simp] theorem State.requestDraw_sp (s : State) (x y : Byte) (l : List Byte) : (s.requestDraw x y l).sp = s.sp := rfl
@[simp] theorem State.requestDraw_stack (s : State) (x y : Byte) (l : List Byte) : (s.requestDraw x y l).stack = s.stack := rfl
@[simp] theorem State.requestDraw_DT (s : State) (x y : Byte) (l : List Byte) : (s.requestDraw x y l).DT = s.DT := rfl
@[simp] theorem State.requestDraw_ST (s : State) (x y : Byte) (l : List Byte) : (s.requestDraw x y l).ST = s.ST := rfl
@[simp] theorem State.requestDraw_mem (s : State) (x y : Byte) (l : List Byte) : (s.requestDraw x y l).mem = s.mem := rfl
@[simp] theorem State.requestDraw_fault (s : State) (x y : Byte) (l : List Byte) : (s.requestDraw x y l).fault = s.fault := rfl
@[simp] theorem State.requestDraw_draws (s : State) (x y : Byte) (l : List Byte) : (s.requestDraw x y l).draws = s.draws + 1 := rfl
@[simp] theorem State.requestDraw_io (s : State) (x y : Byte) (l : List Byte) : (s.requestDraw x y l).io = .draw x y l (s.drawAnswer x y l) :: s.io := rfl

/-! ### `State.requestDown` -/

@[simp] theorem State.requestDown_V (s : State) (k : Byte) : (s.requestDown k).V = s.V := rfl
@[simp] theorem State.requestDown_I (s : State) (k : Byte) : (s.requestDown k).I = s.I := rfl
@[simp] theorem State.requestDown_pc (s : State) (k : Byte) : (s.requestDown k).pc = s.pc := rfl
@[simp] theorem State.requestDown_sp (s : State) (k : Byte) : (s.requestDown k).sp = s.sp := rfl
@[simp] theorem State.requestDown_stack (s : State) (k : Byte) : (s.requestDown k).stack = s.stack := rfl
@[simp] theorem State.requestDown_DT (s : State) (k : Byte) : (s.requestDown k).DT = s.DT := rfl
@[simp] theorem State.requestDown_ST (s : State) (k : Byte) : (s.requestDown k).ST = s.ST := rfl
@[simp] theorem State.requestDown_mem (s : State) (k : Byte) : (s.requestDown k).mem = s.mem := rfl
@[simp] theorem State.requestDown_fault (s : State) (k : Byte) : (s.requestDown k).fault = s.fault := rfl
@[simp] theorem State.requestDown_draws (s : State) (k : Byte) : (s.requestDown k).draws = s.draws + 1 := rfl
@[simp] theorem State.requestDown_io (s : State) (k : Byte) : (s.requestDown k).io = .isDown k (s.downAnswer k) :: s.io := rfl

/-! ### `State.requestPoll` -/

@[simp] theorem State.requestPoll_V (s : State) : s.requestPoll.V = s.V := rfl
@[simp] theorem State.requestPoll_I (s : State) : s.requestPoll.I = s.I := rfl
@[simp] theorem State.requestPoll_pc (s : State) : s.requestPoll.pc = s.pc := rfl
@[simp] theorem State.requestPoll_sp (s : State) : s.requestPoll.sp = s.sp := rfl
@[simp] theorem State.requestPoll_stack (s : State) : s.requestPoll.stack = s.stack := rfl
@[simp] theorem State.requestPoll_DT (s : State) : s.requestPoll.DT = s.DT := rfl
@[simp] theorem State.requestPoll_ST (s : State) : s.requestPoll.ST = s.ST := rfl
@[simp] theorem State.requestPoll_mem (s : State) : s.requestPoll.mem = s.mem := rfl
@[simp] theorem State.requestPoll_fault (s : State) : s.requestPoll.fault = s.fault := rfl
@[simp] theorem State.requestPoll_draws (s : State) : s.requestPoll.draws = s.draws + 1 := rfl
@[simp] theorem State.requestPoll_io (s : State) : s.requestPoll.io = .pollPressed s.pollAnswer :: s.io := rfl

/-! ### `State.requestRandom` -/

@[simp] theorem State.requestRandom_V (s : State) : s.requestRandom.V = s.V := rfl
@[simp] theorem State.requestRandom_I (s : State) : s.requestRandom.I = s.I := rfl
@[simp] theorem State.requestRandom_pc (s : State) : s.requestRandom.pc = s.pc := rfl
@[simp] theorem State.requestRandom_sp (s : State) : s.requestRandom.sp = s.sp := rfl
@[simp] theorem State.requestRandom_stack (s : State) : s.requestRandom.stack = s.stack := rfl
@[simp] theorem State.requestRandom_DT (s : State) : s.requestRandom.DT = s.DT := rfl
@[simp] theorem State.requestRandom_ST (s : State) : s.requestRandom.ST = s.ST := rfl
@[simp] theorem State.requestRandom_mem (s : State) : s.requestRandom.mem = s.mem := rfl
@[simp] theorem State.requestRandom_fault (s : State) : s.requestRandom.fault = s.fault := rfl
@[simp] theorem State.requestRandom_draws (s : State) : s.requestRandom.draws = s.draws + 1 := rfl
@[simp] theorem State.requestRandom_io (s : State) : s.requestRandom.io = .nextByte s.randomAnswer :: s.io := rfl

/-! ### `State.takeFault` -/

@[simp] theorem State.takeFault_V (s t : State) (op : Option Word) (r : Raise) : (s.takeFault t op r).V = s.V := rfl
@[simp] theorem State.takeFault_I (s t : State) (op : Option Word) (r : Raise) : (s.takeFault t op r).I = s.I := rfl
@[simp] theorem State.takeFault_pc (s t : State) (op : Option Word) (r : Raise) : (s.takeFault t op r).pc = s.pc := rfl
@[simp] theorem State.takeFault_sp (s t : State) (op : Option Word) (r : Raise) : (s.takeFault t op r).sp = s.sp := rfl
@[simp] theorem State.takeFault_stack (s t : State) (op : Option Word) (r : Raise) : (s.takeFault t op r).stack = s.stack := rfl
@[simp] theorem State.takeFault_DT (s t : State) (op : Option Word) (r : Raise) : (s.takeFault t op r).DT = s.DT := rfl
@[simp] theorem State.takeFault_ST (s t : State) (op : Option Word) (r : Raise) : (s.takeFault t op r).ST = s.ST := rfl
@[simp] theorem State.takeFault_mem (s t : State) (op : Option Word) (r : Raise) : (s.takeFault t op r).mem = s.mem := rfl
@[simp] theorem State.takeFault_fault (s t : State) (op : Option Word) (r : Raise) : (s.takeFault t op r).fault = some { kind := r.kind, pc := s.pc, opcode := op, addr := r.addr } := rfl
@[simp] theorem State.takeFault_draws (s t : State) (op : Option Word) (r : Raise) : (s.takeFault t op r).draws = t.draws := rfl
@[simp] theorem State.takeFault_io (s t : State) (op : Option Word) (r : Raise) : (s.takeFault t op r).io = t.io := rfl

/-! ### `State.tick` -/

@[simp] theorem State.tick_V (s : State) : s.tick.V = s.V := rfl
@[simp] theorem State.tick_I (s : State) : s.tick.I = s.I := rfl
@[simp] theorem State.tick_pc (s : State) : s.tick.pc = s.pc := rfl
@[simp] theorem State.tick_sp (s : State) : s.tick.sp = s.sp := rfl
@[simp] theorem State.tick_stack (s : State) : s.tick.stack = s.stack := rfl
@[simp] theorem State.tick_DT (s : State) : s.tick.DT = timerDown s.DT := rfl
@[simp] theorem State.tick_ST (s : State) : s.tick.ST = timerDown s.ST := rfl
@[simp] theorem State.tick_mem (s : State) : s.tick.mem = s.mem := rfl
@[simp] theorem State.tick_fault (s : State) : s.tick.fault = s.fault := rfl
@[simp] theorem State.tick_draws (s : State) : s.tick.draws = s.draws := rfl
@[simp] theorem State.tick_io (s : State) : s.tick.io = s.io := rfl

/-! ### `State.betweenSteps` -/

@[simp] theorem State.betweenSteps_V (s : State) : s.betweenSteps.V = s.V := rfl
@[simp] theorem State.betweenSteps_I (s : State) : s.betweenSteps.I = s.I := rfl
@[simp] theorem State.betweenSteps_pc (s : State) : s.betweenSteps.pc = s.pc := rfl
@[simp] theorem State.betweenSteps_sp (s : State) : s.betweenSteps.sp = s.sp := rfl
@[simp] theorem State.betweenSteps_stack (s : State) : s.betweenSteps.stack = s.stack := rfl
@[simp] theorem State.betweenSteps_DT (s : State) : s.betweenSteps.DT = timerAfter (Config.ticksBefore s.draws) s.DT := rfl
@[simp] theorem State.betweenSteps_ST (s : State) : s.betweenSteps.ST = timerAfter (Config.ticksBefore s.draws) s.ST := rfl
@[simp] theorem State.betweenSteps_mem (s : State) : s.betweenSteps.mem = s.mem := rfl
@[simp] theorem State.betweenSteps_fault (s : State) : s.betweenSteps.fault = s.fault := rfl
@[simp] theorem State.betweenSteps_draws (s : State) : s.betweenSteps.draws = s.draws + 1 := rfl
@[simp] theorem State.betweenSteps_io (s : State) : s.betweenSteps.io = s.io := rfl

/-! ### `State.setReg` -/

@[simp] theorem State.setReg_V (s : State) (x : Reg) (b : Byte) : (s.setReg x b).V = s.V.set x.val b := rfl
@[simp] theorem State.setReg_I (s : State) (x : Reg) (b : Byte) : (s.setReg x b).I = s.I := rfl
@[simp] theorem State.setReg_pc (s : State) (x : Reg) (b : Byte) : (s.setReg x b).pc = s.pc := rfl
@[simp] theorem State.setReg_sp (s : State) (x : Reg) (b : Byte) : (s.setReg x b).sp = s.sp := rfl
@[simp] theorem State.setReg_stack (s : State) (x : Reg) (b : Byte) : (s.setReg x b).stack = s.stack := rfl
@[simp] theorem State.setReg_DT (s : State) (x : Reg) (b : Byte) : (s.setReg x b).DT = s.DT := rfl
@[simp] theorem State.setReg_ST (s : State) (x : Reg) (b : Byte) : (s.setReg x b).ST = s.ST := rfl
@[simp] theorem State.setReg_mem (s : State) (x : Reg) (b : Byte) : (s.setReg x b).mem = s.mem := rfl
@[simp] theorem State.setReg_fault (s : State) (x : Reg) (b : Byte) : (s.setReg x b).fault = s.fault := rfl
@[simp] theorem State.setReg_draws (s : State) (x : Reg) (b : Byte) : (s.setReg x b).draws = s.draws := rfl
@[simp] theorem State.setReg_io (s : State) (x : Reg) (b : Byte) : (s.setReg x b).io = s.io := rfl

/-! ### `State.setI` -/

@[simp] theorem State.setI_V (s : State) (w : Word) : (s.setI w).V = s.V := rfl
@[simp] theorem State.setI_I (s : State) (w : Word) : (s.setI w).I = w := rfl
@[simp] theorem State.setI_pc (s : State) (w : Word) : (s.setI w).pc = s.pc := rfl
@[simp] theorem State.setI_sp (s : State) (w : Word) : (s.setI w).sp = s.sp := rfl
@[simp] theorem State.setI_stack (s : State) (w : Word) : (s.setI w).stack = s.stack := rfl
@[simp] theorem State.setI_DT (s : State) (w : Word) : (s.setI w).DT = s.DT := rfl
@[simp] theorem State.setI_ST (s : State) (w : Word) : (s.setI w).ST = s.ST := rfl
@[simp] theorem State.setI_mem (s : State) (w : Word) : (s.setI w).mem = s.mem := rfl
@[simp] theorem State.setI_fault (s : State) (w : Word) : (s.setI w).fault = s.fault := rfl
@[simp] theorem State.setI_draws (s : State) (w : Word) : (s.setI w).draws = s.draws := rfl
@[simp] theorem State.setI_io (s : State) (w : Word) : (s.setI w).io = s.io := rfl

/-! ### `State.setRegs` -/

@[simp] theorem State.setRegs_V (s : State) (bs : List Byte) : (s.setRegs bs).V = loadRegs s.V 0 bs := rfl
@[simp] theorem State.setRegs_I (s : State) (bs : List Byte) : (s.setRegs bs).I = s.I := rfl
@[simp] theorem State.setRegs_pc (s : State) (bs : List Byte) : (s.setRegs bs).pc = s.pc := rfl
@[simp] theorem State.setRegs_sp (s : State) (bs : List Byte) : (s.setRegs bs).sp = s.sp := rfl
@[simp] theorem State.setRegs_stack (s : State) (bs : List Byte) : (s.setRegs bs).stack = s.stack := rfl
@[simp] theorem State.setRegs_DT (s : State) (bs : List Byte) : (s.setRegs bs).DT = s.DT := rfl
@[simp] theorem State.setRegs_ST (s : State) (bs : List Byte) : (s.setRegs bs).ST = s.ST := rfl
@[simp] theorem State.setRegs_mem (s : State) (bs : List Byte) : (s.setRegs bs).mem = s.mem := rfl
@[simp] theorem State.setRegs_fault (s : State) (bs : List Byte) : (s.setRegs bs).fault = s.fault := rfl
@[simp] theorem State.setRegs_draws (s : State) (bs : List Byte) : (s.setRegs bs).draws = s.draws := rfl
@[simp] theorem State.setRegs_io (s : State) (bs : List Byte) : (s.setRegs bs).io = s.io := rfl

/-! ### `State.setFlag` -/

@[simp] theorem State.setFlag_V (s : State) (f : Bool) : (s.setFlag f).V = s.V.set 15 (flagByte f) := rfl
@[simp] theorem State.setFlag_I (s : State) (f : Bool) : (s.setFlag f).I = s.I := rfl
@[simp] theorem State.setFlag_pc (s : State) (f : Bool) : (s.setFlag f).pc = s.pc := rfl
@[simp] theorem State.setFlag_sp (s : State) (f : Bool) : (s.setFlag f).sp = s.sp := rfl
@[simp] theorem State.setFlag_stack (s : State) (f : Bool) : (s.setFlag f).stack = s.stack := rfl
@[simp] theorem State.setFlag_DT (s : State) (f : Bool) : (s.setFlag f).DT = s.DT := rfl
@[simp] theorem State.setFlag_ST (s : State) (f : Bool) : (s.setFlag f).ST = s.ST := rfl
@[simp] theorem State.setFlag_mem (s : State) (f : Bool) : (s.setFlag f).mem = s.mem := rfl
@[simp] theorem State.setFlag_fault (s : State) (f : Bool) : (s.setFlag f).fault = s.fault := rfl
@[simp] theorem State.setFlag_draws (s : State) (f : Bool) : (s.setFlag f).draws = s.draws := rfl
@[simp] theorem State.setFlag_io (s : State) (f : Bool) : (s.setFlag f).io = s.io := rfl

/-! ### `State.setResult` -/

@[simp] theorem State.setResult_V (s : State) (x : Reg) (b : Byte) (f : Bool) : (s.setResult x b f).V = (s.V.set x.val b).set 15 (flagByte f) := rfl
@[simp] theorem State.setResult_I (s : State) (x : Reg) (b : Byte) (f : Bool) : (s.setResult x b f).I = s.I := rfl
@[simp] theorem State.setResult_pc (s : State) (x : Reg) (b : Byte) (f : Bool) : (s.setResult x b f).pc = s.pc := rfl
@[simp] theorem State.setResult_sp (s : State) (x : Reg) (b : Byte) (f : Bool) : (s.setResult x b f).sp = s.sp := rfl
@[simp] theorem State.setResult_stack (s : State) (x : Reg) (b : Byte) (f : Bool) : (s.setResult x b f).stack = s.stack := rfl
@[simp] theorem State.setResult_DT (s : State) (x : Reg) (b : Byte) (f : Bool) : (s.setResult x b f).DT = s.DT := rfl
@[simp] theorem State.setResult_ST (s : State) (x : Reg) (b : Byte) (f : Bool) : (s.setResult x b f).ST = s.ST := rfl
@[simp] theorem State.setResult_mem (s : State) (x : Reg) (b : Byte) (f : Bool) : (s.setResult x b f).mem = s.mem := rfl
@[simp] theorem State.setResult_fault (s : State) (x : Reg) (b : Byte) (f : Bool) : (s.setResult x b f).fault = s.fault := rfl
@[simp] theorem State.setResult_draws (s : State) (x : Reg) (b : Byte) (f : Bool) : (s.setResult x b f).draws = s.draws := rfl
@[simp] theorem State.setResult_io (s : State) (x : Reg) (b : Byte) (f : Bool) : (s.setResult x b f).io = s.io := rfl

end Sys2Proof.Machine
end

