-- ==== Sys2Proof/Laws/Memory.lean ====
section
/-! SUPPORT. Memory: a read after a write, the canonical form kept by every write, and what the checked accesses of
spec/20_memory.md R52 and R58 answer. -/

namespace Sys2Proof.Machine

/-! ### The canonical form, as a recursion on the list -/

@[simp] theorem Memory.get_nil (a : Nat) : Memory.get [] a = Memory.resetByte a := rfl

theorem Memory.get_cons (b : Nat) (w : Byte) (m : Memory) (a : Nat) :
    Memory.get ((b, w) :: m) a = if b = a then w else Memory.get m a := rfl

@[simp] theorem Memory.wf_nil : Memory.wf [] = true := rfl

theorem Memory.wf_cons (b : Nat) (w : Byte) (m : Memory) :
    Memory.wf ((b, w) :: m) = true ↔
      (∀ c ∈ m, b < c.1) ∧ b < Config.memSize ∧ w ≠ Memory.resetByte b ∧ Memory.wf m = true := by
  simp only [Memory.wf, List.pairwise_cons, List.all_cons, Bool.and_eq_true, decide_eq_true_eq, bne_iff_ne]
  tauto

/-- An address below every listed one reads as its reset contents. -/
theorem Memory.get_below {m : Memory} {a : Nat} (h : ∀ c ∈ m, a < c.1) : Memory.get m a = Memory.resetByte a := by
  induction m with
  | nil => rfl
  | cons c m ih =>
    have hc : c.1 ≠ a := Nat.ne_of_gt (h c (by simp))
    rw [show (c :: m : Memory) = (c.1, c.2) :: m from rfl, Memory.get_cons, if_neg hc]
    exact ih fun d hd => h d (by simp [hd])

/-- What a write lists: the address written or an address listed before. -/
theorem Memory.mem_set {m : Memory} {a : Nat} {v : Byte} {c : Host.Cell} (h : c ∈ Memory.set m a v) :
    c.1 = a ∨ c ∈ m := by
  induction m with
  | nil => simp only [Memory.set] at h; split at h <;> simp_all
  | cons d m ih =>
    obtain ⟨b, w⟩ := d
    simp only [Memory.set] at h
    split at h
    · rcases List.mem_cons.mp h with h | h
      · simp [h]
      · exact (ih h).imp_right (List.mem_cons_of_mem _)
    · split at h
      · split at h
        · simp [h]
        · rcases List.mem_cons.mp h with h | h <;> simp [h]
      · split at h
        · exact .inr h
        · rcases List.mem_cons.mp h with h | h
          · simp [h]
          · exact .inr h

/-- Every write inside memory keeps the canonical form. -/
theorem Memory.wf_set {m : Memory} {a : Nat} (v : Byte) (hm : Memory.wf m = true) (ha : a < Config.memSize) :
    Memory.wf (Memory.set m a v) = true := by
  induction m with
  | nil =>
    simp only [Memory.set]
    split
    · rfl
    · exact (Memory.wf_cons a v []).mpr ⟨by simp, ha, ‹_›, rfl⟩
  | cons d m ih =>
    obtain ⟨b, w⟩ := d
    obtain ⟨hlt, hb, hw, hm'⟩ := (Memory.wf_cons b w m).mp hm
    simp only [Memory.set]
    split
    · refine (Memory.wf_cons b w _).mpr ⟨fun c hc => ?_, hb, hw, ih hm'⟩
      rcases Memory.mem_set hc with h | h
      · omega
      · exact hlt c h
    · split
      · subst b
        split
        · exact hm'
        · exact (Memory.wf_cons a v m).mpr ⟨hlt, ha, ‹_›, hm'⟩
      · split
        · exact hm
        · refine (Memory.wf_cons a v _).mpr ⟨fun c hc => ?_, ha, ‹_›, hm⟩
          rcases List.mem_cons.mp hc with h | h
          · subst h; simp only; omega
          · have := hlt c h; omega

/-- A read after a write: the byte written at its address, every other byte as before. -/
theorem Memory.get_set {m : Memory} (hm : Memory.wf m = true) (a : Nat) (v : Byte) (b : Nat) :
    Memory.get (Memory.set m a v) b = if b = a then v else Memory.get m b := by
  induction m with
  | nil =>
    simp only [Memory.set]
    split
    · split <;> simp_all
    · simp [Memory.get_cons, eq_comm]
  | cons d m ih =>
    obtain ⟨c, w⟩ := d
    obtain ⟨hlt, -, -, hm'⟩ := (Memory.wf_cons c w m).mp hm
    have above : ∀ {e : Nat}, e ≤ c → ∀ x ∈ m, e < x.1 := fun he x hx => Nat.lt_of_le_of_lt he (hlt x hx)
    simp only [Memory.set]
    split
    · rw [Memory.get_cons, ih hm', Memory.get_cons]
      split
      · rw [if_neg (by omega)]
      · rfl
    · split
      · subst c
        split
        · by_cases h : b = a
          · subst b; rw [if_pos rfl, Memory.get_below (above (Nat.le_refl a))]; exact Eq.symm ‹_›
          · rw [if_neg h, Memory.get_cons, if_neg (Ne.symm h)]
        · simp only [Memory.get_cons]
          by_cases h : b = a
          · simp [h]
          · rw [if_neg h, if_neg (Ne.symm h), if_neg (Ne.symm h)]
      · split
        · by_cases h : b = a
          · subst b
            rw [if_pos rfl, Memory.get_cons, if_neg ‹_›, Memory.get_below (above (by omega))]
            exact Eq.symm ‹_›
          · rw [if_neg h]
        · rw [Memory.get_cons]
          by_cases h : b = a
          · simp [h]
          · rw [if_neg h, if_neg (Ne.symm h)]

/-! ### Consecutive bytes -/

/-- Consecutive writes inside memory keep the canonical form. -/
theorem Memory.wf_setBytes {vs : List Byte} : ∀ {m : Memory} {a : Nat}, Memory.wf m = true →
    a + vs.length ≤ Config.memSize → Memory.wf (Memory.setBytes m a vs) = true := by
  induction vs with
  | nil => intro m a hm _; exact hm
  | cons v vs ih =>
    intro m a hm ha
    simp only [List.length_cons] at ha
    exact ih (Memory.wf_set v hm (by omega)) (by omega)

/-- A read after consecutive writes. -/
theorem Memory.get_setBytes {vs : List Byte} : ∀ {m : Memory} {a : Nat}, Memory.wf m = true →
    a + vs.length ≤ Config.memSize → ∀ b, Memory.get (Memory.setBytes m a vs) b =
      if h : a ≤ b ∧ b - a < vs.length then vs[b - a]'h.2 else Memory.get m b := by
  induction vs with
  | nil => intro m a _ _ b; simp [Memory.setBytes]
  | cons v vs ih =>
    intro m a hm ha b
    simp only [List.length_cons] at ha
    rw [Memory.setBytes, ih (Memory.wf_set v hm (by omega)) (by omega), Memory.get_set hm]
    by_cases h1 : b = a
    · subst h1; simp
    · by_cases h2 : a + 1 ≤ b ∧ b - (a + 1) < vs.length
      · rw [dif_pos h2, dif_pos ⟨by omega, by simp only [List.length_cons]; omega⟩]
        have : b - a = (b - (a + 1)) + 1 := by omega
        simp [this]
      · rw [dif_neg h2, if_neg h1, dif_neg]
        simp only [List.length_cons]; omega

@[simp] theorem Memory.length_getBytes (m : Memory) (n : Nat) : ∀ a, (Memory.getBytes m a n).length = n := by
  induction n with
  | zero => intro a; rfl
  | succ n ih => intro a; simp [Memory.getBytes, ih]

theorem Memory.getElem_getBytes (m : Memory) (n : Nat) : ∀ (a k : Nat) (h : k < (Memory.getBytes m a n).length),
    (Memory.getBytes m a n)[k] = Memory.get m (a + k) := by
  induction n with
  | zero => intro a k h; simp at h
  | succ n ih =>
    intro a k h
    cases k with
    | zero => rfl
    | succ k =>
      simp only [Memory.getBytes, List.getElem_cons_succ]
      rw [ih]; congr 1; omega

/-! ### The checked accesses: once the range has been checked they do not fault -/

/-- `MemRead` inside memory. -/
theorem memRead_eq_ok (s : State) (n : Nat) : ∀ a, a + n ≤ Config.memSize →
    memRead s a n = .ok (s.mem.getBytes a n) := by
  induction n with
  | zero => intro a _; rfl
  | succ n ih =>
    intro a h
    have hin : ¬ Config.lastAddr < a := by simp only [Config.memSize, Config.lastAddr] at *; omega
    have tail := ih (a + 1) (by omega)
    simp only [memRead, memRead8, if_neg hin, tail, bind, Except.bind, pure, Except.pure, Memory.getBytes]

/-- Consecutive `MemWrite8` inside memory. -/
theorem memWrite_eq_ok (vs : List Byte) : ∀ (s : State) (a : Nat), a + vs.length ≤ Config.memSize →
    memWrite s a vs = .ok { s with mem := s.mem.setBytes a vs } := by
  induction vs with
  | nil => intro s a _; rfl
  | cons v vs ih =>
    intro s a h
    simp only [List.length_cons] at h
    have hin : ¬ Config.lastAddr < a := by simp only [Config.memSize, Config.lastAddr] at *; omega
    simp only [memWrite, memWrite8, if_neg hin, bind, Except.bind, Memory.setBytes]
    exact ih _ _ (by omega)

/-- Every answer of the range check (R58). -/
theorem checkRange_cases (a n : Nat) :
    (a + n ≤ Config.memSize ∨ n = 0) ∧ checkRange a n = .ok () ∨
    Config.lastAddr < a + n - 1 ∧ 0 < n ∧ checkRange a n = .error (.outOfBounds (a + n - 1)) := by
  unfold checkRange
  split
  · exact .inr ⟨by omega, by omega, rfl⟩
  · refine .inl ⟨?_, rfl⟩; simp only [Config.memSize, Config.lastAddr] at *; omega

/-- The bytes read at I, the range inside memory. -/
theorem readAtI_eq_ok {s : State} {n : Nat} (h : s.I.toNat + n ≤ Config.memSize ∨ n = 0) :
    readAtI s n = .ok (s.mem.getBytes s.I.toNat n) := by
  have hc : checkRange s.I.toNat n = .ok () := by
    unfold checkRange; rw [if_neg]; simp only [Config.memSize, Config.lastAddr] at *; omega
  rcases h with h | h
  · simp only [readAtI, hc, bind, Except.bind, memRead_eq_ok s n _ h]
  · subst h; simp only [readAtI, hc, bind, Except.bind]; rfl

/-- The bytes stored at I, the range inside memory. -/
theorem writeAtI_eq_ok {s : State} {vs : List Byte} (h : s.I.toNat + vs.length ≤ Config.memSize) :
    writeAtI s vs = .ok { s with mem := s.mem.setBytes s.I.toNat vs } := by
  have hc : checkRange s.I.toNat vs.length = .ok () := by
    unfold checkRange; rw [if_neg]; simp only [Config.memSize, Config.lastAddr] at *; omega
  simp only [writeAtI, hc, bind, Except.bind, memWrite_eq_ok vs s _ h]

/-- A range that runs past 0xFFF faults with its last address and reads nothing. -/
theorem readAtI_eq_error {s : State} {n : Nat} (hn : 0 < n) (h : Config.lastAddr < s.I.toNat + n - 1) :
    readAtI s n = .error (.outOfBounds (s.I.toNat + n - 1)) := by
  simp only [readAtI, checkRange, if_pos (And.intro hn h), bind, Except.bind]

/-- A range that runs past 0xFFF faults with its last address and stores nothing. -/
theorem writeAtI_eq_error {s : State} {vs : List Byte} (hn : 0 < vs.length)
    (h : Config.lastAddr < s.I.toNat + vs.length - 1) :
    writeAtI s vs = .error (.outOfBounds (s.I.toNat + vs.length - 1)) := by
  simp only [writeAtI, checkRange, if_pos (And.intro hn h), bind, Except.bind]

end Sys2Proof.Machine
end

