-- ==== Sys2Proof/Laws/Ops.lean ====
section
/-! SUPPORT. What each shared operation can do, said once: the register file, the stack, pc, and the frame of an
instruction (`runEffect`). -/

namespace Sys2Proof.Machine

/-! ### Registers -/

@[simp] theorem State.reg_setReg_same (s : State) (x : Reg) (b : Byte) : (s.setReg x b).reg x = b := by
  simp [State.reg]

theorem State.reg_setReg_ne (s : State) {x r : Reg} (b : Byte) (h : r ≠ x) : (s.setReg x b).reg r = s.reg r := by
  simp only [State.reg, State.setReg_V]
  exact Vector.getElem_set_ne _ _ fun e => h (Fin.ext e.symm)

@[simp] theorem State.reg_advance (s : State) (x : Reg) : s.advance.reg x = s.reg x := rfl

@[simp] theorem State.downAnswer_advance (s : State) (k : Byte) : s.advance.downAnswer k = Config.keyDown s.draws s.io k :=
  rfl

@[simp] theorem State.pollAnswer_advance (s : State) : s.advance.pollAnswer = Config.polledKey s.draws s.io := rfl

@[simp] theorem State.randomAnswer_advance (s : State) : s.advance.randomAnswer = Config.randomByte s.draws s.io := rfl

@[simp] theorem State.drawAnswer_advance (s : State) (x y : Byte) (l : List Byte) :
    s.advance.drawAnswer x y l = Config.collided s.draws s.io x y l := rfl

@[simp] theorem State.length_regsTo (s : State) (x : Reg) : (s.regsTo x).length = x.val + 1 := by
  simp [State.regsTo]

theorem State.getElem_regsTo (s : State) (x : Reg) (k : Nat) (h : k < (s.regsTo x).length) :
    (s.regsTo x)[k] = s.V[k]'(by simp at h; omega) := by
  simp [State.regsTo]

/-- Each register after a load of consecutive registers. -/
theorem loadRegs_getElem (bs : List Byte) : ∀ (V : Vector Byte 16) (i r : Nat) (hr : r < 16),
    (loadRegs V i bs)[r] = if h : i ≤ r ∧ r - i < bs.length then bs[r - i]'h.2 else V[r] := by
  induction bs with
  | nil => intro V i r hr; simp [loadRegs]
  | cons b bs ih =>
    intro V i r hr
    rw [loadRegs, ih]
    by_cases h1 : i + 1 ≤ r ∧ r - (i + 1) < bs.length
    · rw [dif_pos h1, dif_pos ⟨by omega, by simp only [List.length_cons]; omega⟩]
      have : r - i = (r - (i + 1)) + 1 := by omega
      simp [this]
    · rw [dif_neg h1]
      by_cases h2 : i = r
      · subst h2; simp
      · rw [dif_neg (by simp only [List.length_cons]; omega), Vector.getElem_setIfInBounds_ne _ h2]

/-! ### The stack -/

/-- A push below the top of the stack. -/
theorem State.push_eq_ok {s : State} (h : s.sp.val < 16) :
    s.push = .ok { s with stack := s.stack.set s.sp.val s.pc h, sp := ⟨s.sp.val + 1, Nat.succ_lt_succ h⟩ } := by
  unfold State.push; exact dif_pos h

/-- A push on a full stack. -/
theorem State.push_eq_error {s : State} (h : ¬ s.sp.val < 16) :
    s.push = .error { kind := .stackOverflow, addr := none } := by
  unfold State.push; exact dif_neg h

/-- A pop of a stack that is not empty. -/
theorem State.pop_eq_ok {s : State} (h : s.sp.val ≠ 0) :
    s.pop = .ok { s with
      sp := ⟨s.sp.val - 1, by omega⟩
      pc := s.stack[s.sp.val - 1]'(by have := s.sp.isLt; omega) } := by
  unfold State.pop; exact dif_neg h

/-- A pop of an empty stack. -/
theorem State.pop_eq_error {s : State} (h : s.sp.val = 0) :
    s.pop = .error { kind := .stackUnderflow, addr := none } := by
  unfold State.pop; exact dif_pos h

/-- Everything a push can answer (R103). -/
theorem State.push_cases (s : State) :
    (∃ h : s.sp.val < 16, s.push =
      .ok { s with stack := s.stack.set s.sp.val s.pc h, sp := ⟨s.sp.val + 1, Nat.succ_lt_succ h⟩ }) ∨
    (s.sp.val = 16 ∧ s.push = .error { kind := .stackOverflow, addr := none }) := by
  by_cases h : s.sp.val < 16
  · exact .inl ⟨h, State.push_eq_ok h⟩
  · exact .inr ⟨by omega, State.push_eq_error h⟩

/-- Everything a pop can answer (R101). -/
theorem State.pop_cases (s : State) :
    (s.sp.val ≠ 0 ∧ s.pop = .ok { s with
      sp := ⟨s.sp.val - 1, by omega⟩
      pc := s.stack[s.sp.val - 1]'(by have := s.sp.isLt; omega) }) ∨
    (s.sp.val = 0 ∧ s.pop = .error { kind := .stackUnderflow, addr := none }) := by
  by_cases h : s.sp.val = 0
  · exact .inr ⟨h, State.pop_eq_error h⟩
  · exact .inl ⟨h, State.pop_eq_ok h⟩

/-! ### Checked addresses: everything each can answer -/

/-- A computed I (R24). -/
theorem State.setIChecked_cases (s : State) (a : Nat) :
    (a ≤ 0xFFF ∧ s.setIChecked a = .ok (s.setI (BitVec.ofNat 16 a))) ∨
    (0xFFF < a ∧ s.setIChecked a = .error (.outOfBounds a)) := by
  unfold State.setIChecked
  split
  · exact .inr ⟨‹_›, rfl⟩
  · exact .inl ⟨Nat.le_of_not_lt ‹_›, rfl⟩

/-- A read at I (R58). -/
theorem readAtI_cases (s : State) (n : Nat) :
    ((s.I.toNat + n ≤ Config.memSize ∨ n = 0) ∧ readAtI s n = .ok (s.mem.getBytes s.I.toNat n)) ∨
    (0 < n ∧ 0xFFF < s.I.toNat + n - 1 ∧ readAtI s n = .error (.outOfBounds (s.I.toNat + n - 1))) := by
  rcases checkRange_cases s.I.toNat n with ⟨h, -⟩ | ⟨h, hn, -⟩
  · exact .inl ⟨h, readAtI_eq_ok h⟩
  · exact .inr ⟨hn, h, readAtI_eq_error hn h⟩

/-- A store at I of at least one byte (R58). -/
theorem writeAtI_cases (s : State) {vs : List Byte} (hv : 0 < vs.length) :
    (s.I.toNat + vs.length ≤ Config.memSize ∧
      writeAtI s vs = .ok { s with mem := s.mem.setBytes s.I.toNat vs }) ∨
    (0xFFF < s.I.toNat + vs.length - 1 ∧ writeAtI s vs = .error (.outOfBounds (s.I.toNat + vs.length - 1))) := by
  rcases checkRange_cases s.I.toNat vs.length with ⟨h | h, -⟩ | ⟨h, hn, -⟩
  · exact .inl ⟨h, writeAtI_eq_ok h⟩
  · omega
  · exact .inr ⟨h, writeAtI_eq_error hn h⟩

/-! ### An instruction as a whole -/

theorem State.finish_of_le {s t : State} (op : Word) (h : t.pc.toNat ≤ 0xFFF) : s.finish t op = t := by
  unfold State.finish; exact if_neg (Nat.not_lt.mpr h)

theorem State.finish_of_gt {s t : State} (op : Word) (h : 0xFFF < t.pc.toNat) :
    s.finish t op = s.takeFault t (some op) { kind := .memoryOutOfBounds, addr := some t.pc } := by
  unfold State.finish
  rw [if_pos (by exact h)]
  simp [Raise.outOfBounds]

theorem runEffect_of_ok {op : Word} {s t : State} {effect : State → Raises State} (h : effect s.advance = .ok t) :
    runEffect op s effect = .next (s.finish t op) := by
  simp only [runEffect, h]

theorem runEffect_of_error {op : Word} {s : State} {r : Raise} {effect : State → Raises State}
    (h : effect s.advance = .error r) : runEffect op s effect = .next (s.takeFault s (some op) r) := by
  simp only [runEffect, h]

/-- Everything an instruction can answer: its effect's state, the fault its effect raises, or the fault of the final pc
check (R85). -/
theorem runEffect_cases {op : Word} {s u : State} {effect : State → Raises State}
    (h : runEffect op s effect = .next u) :
    (effect s.advance = .ok u ∧ u.pc.toNat ≤ 0xFFF) ∨
    (∃ r, effect s.advance = .error r ∧ u = s.takeFault s (some op) r) ∨
    (∃ t, effect s.advance = .ok t ∧ 0xFFF < t.pc.toNat ∧
      u = s.takeFault t (some op) { kind := .memoryOutOfBounds, addr := some t.pc }) := by
  cases he : effect s.advance with
  | error r =>
    rw [runEffect_of_error he] at h
    exact .inr (.inl ⟨r, rfl, by injection h with h; exact h.symm⟩)
  | ok t =>
    rw [runEffect_of_ok he] at h
    injection h with h
    by_cases hp : t.pc.toNat ≤ 0xFFF
    · rw [State.finish_of_le op hp] at h; subst h; exact .inl ⟨rfl, hp⟩
    · have hp : 0xFFF < t.pc.toNat := by omega
      rw [State.finish_of_gt op hp] at h
      exact .inr (.inr ⟨t, rfl, hp, h.symm⟩)

/-- An effect that gives a state makes the instruction land there. -/
theorem lands_of_ok {i : Instr} {s t : State} {effect : State → Raises State}
    (hx : exec i s = runEffect (encode i) s effect) (h : effect s.advance = .ok t) : Lands i s t := by
  refine ⟨fun hp => ?_, fun hp => ?_⟩
  · rw [hx, runEffect_of_ok h, State.finish_of_le _ hp]
  · rw [hx, runEffect_of_ok h, State.finish_of_gt _ hp]; rfl

/-- An effect that raises makes the instruction trap. -/
theorem traps_of_error {i : Instr} {s : State} {k : FaultKind} {a : Option Word} {effect : State → Raises State}
    (hx : exec i s = runEffect (encode i) s effect) (h : effect s.advance = .error { kind := k, addr := a }) :
    Traps i s k a := by
  rw [Traps, hx, runEffect_of_error h]; rfl

end Sys2Proof.Machine
end

