-- ==== Sys2Proof/Laws/Cycle.lean ====
section
/-! SUPPORT. Everything the fetch and the step port can answer. -/

namespace Sys2Proof.Machine

/-- The fetch: two bytes inside memory, or the first address outside (R53). -/
theorem fetch16_cases (s : State) (a : Nat) :
    (a ≤ 0xFFE ∧ fetch16 s a = .ok (wordOfBytes (s.mem.get a) (s.mem.get (a + 1)))) ∨
    (0xFFE < a ∧ ∃ b, 0xFFF < b ∧ a ≤ b ∧ b ≤ a + 1 ∧ fetch16 s a = .error (.outOfBounds b)) := by
  by_cases h1 : Config.lastAddr < a
  · exact .inr ⟨by simp only [Config.lastAddr] at h1; omega, a, h1, by omega, by omega, by rw [fetch16, if_pos h1]⟩
  · by_cases h2 : Config.lastAddr < a + 1
    · exact .inr ⟨by simp only [Config.lastAddr] at h2; omega, a + 1, h2, by omega, by omega,
        by rw [fetch16, if_neg h1, if_pos h2]⟩
    · exact .inl ⟨by simp only [Config.lastAddr] at h2; omega, by rw [fetch16, if_neg h1, if_neg h2]⟩

/-- The step port on a faulted state (R207). -/
theorem stepPort_of_fault {s : State} {r : FaultRecord} (h : s.fault = some r) : stepPort s = .fault (.latched r) := by
  simp only [stepPort, h]

/-- The step port where the fetch and the decode succeed (R85). -/
theorem stepPort_of_decode {s : State} {op : Word} {i : Instr} (hr : s.running) (hf : fetch16 s s.pc.toNat = .ok op)
    (hd : decodeWord op = some i) : stepPort s = exec i s := by
  simp only [stepPort, hr, hf, hd]

/-- Everything the step port can answer with a next state (R85, R208). -/
theorem stepPort_cases {s t : State} (h : stepPort s = .next t) :
    s.running ∧
    ((∃ r, fetch16 s s.pc.toNat = .error r ∧ t = s.takeFault s none r) ∨
     (∃ op, fetch16 s s.pc.toNat = .ok op ∧ decodeWord op = none ∧
       t = s.takeFault s (some op) { kind := .invalidOpcode, addr := none }) ∨
     (∃ op i, fetch16 s s.pc.toNat = .ok op ∧ decodeWord op = some i ∧ exec i s = .next t)) := by
  unfold stepPort at h
  split at h
  · cases h
  · refine ⟨‹_›, ?_⟩
    split at h
    · injection h with h; exact .inl ⟨_, ‹_›, h.symm⟩
    · split at h
      · injection h with h; exact .inr (.inl ⟨_, ‹_›, ‹_›, h.symm⟩)
      · exact .inr (.inr ⟨_, _, ‹_›, ‹_›, h⟩)

/-- A step is the step port after the ticks (R213). -/
theorem step_eq (s : State) : step s = stepPort s.betweenSteps := rfl

end Sys2Proof.Machine
end

