-- ==== Sys2Proof/Laws/Encoding.lean ====
section
/-! SUPPORT. The formats and the fields as arithmetic on the opcode's value: with these a fact about encoding or decoding
becomes linear arithmetic. -/

namespace Sys2Proof

/-- The value of a concatenation, the left part in the high bits. -/
theorem toNat_append_eq {n m : Nat} (x : BitVec n) (y : BitVec m) : (x ++ y).toNat = x.toNat * 2 ^ m + y.toNat := by
  rw [BitVec.toNat_append, ← Nat.shiftLeft_eq, Nat.shiftLeft_add_eq_or_of_lt y.isLt]

@[simp] theorem Reg.toNat_bits (r : Reg) : r.bits.toNat = r.val := by
  simp [Reg.bits]

theorem toNat_formatA (f : BitVec 4) (nnn : Addr12) : (formatA f nnn).toNat = f.toNat * 4096 + nnn.toNat :=
  toNat_append_eq f nnn

theorem toNat_formatXKK (f : BitVec 4) (x : Reg) (kk : Byte) :
    (formatXKK f x kk).toNat = f.toNat * 4096 + x.val * 256 + kk.toNat := by
  refine (toNat_append_eq (f ++ x.bits) kk).trans ?_
  rw [toNat_append_eq f x.bits, Reg.toNat_bits]; ring

theorem toNat_formatXYN (f : BitVec 4) (x y : Reg) (n : BitVec 4) :
    (formatXYN f x y n).toNat = f.toNat * 4096 + x.val * 256 + y.val * 16 + n.toNat := by
  refine (toNat_append_eq (f ++ x.bits ++ y.bits) n).trans ?_
  rw [toNat_append_eq (f ++ x.bits) y.bits, toNat_append_eq f x.bits, Reg.toNat_bits, Reg.toNat_bits]; ring

theorem Word.family_eq (op : Word) : op.family = op.toNat / 4096 := by
  have := op.isLt
  simp only [Word.family, BitVec.extractLsb'_toNat, Nat.shiftRight_eq_div_pow]; omega

theorem Word.val_fieldX (op : Word) : op.fieldX.val = op.toNat / 256 % 16 := by
  simp [Word.fieldX, Nat.shiftRight_eq_div_pow]

theorem Word.val_fieldY (op : Word) : op.fieldY.val = op.toNat / 16 % 16 := by
  simp [Word.fieldY, Nat.shiftRight_eq_div_pow]

theorem Word.fieldN_eq (op : Word) : op.fieldN = op.toNat % 16 := by
  simp [Word.fieldN, BitVec.extractLsb'_toNat]

theorem Word.toNat_fieldKK (op : Word) : op.fieldKK.toNat = op.toNat % 256 := by
  simp [Word.fieldKK, BitVec.extractLsb'_toNat]

theorem Word.toNat_fieldNNN (op : Word) : op.fieldNNN.toNat = op.toNat % 4096 := by
  simp [Word.fieldNNN, BitVec.extractLsb'_toNat]

theorem Word.toNat_hiByte (op : Word) : op.hiByte.toNat = op.toNat / 256 := by
  have := op.isLt
  simp only [Word.hiByte, BitVec.extractLsb'_toNat, Nat.shiftRight_eq_div_pow]; omega

theorem Word.toNat_loByte (op : Word) : op.loByte.toNat = op.toNat % 256 := by
  simp [Word.loByte, BitVec.extractLsb'_toNat]

/-- The fields of an opcode of format A. -/
theorem fields_formatA (f : BitVec 4) (nnn : Addr12) :
    (formatA f nnn).family = f.toNat ∧ (formatA f nnn).fieldNNN = nnn := by
  have h := toNat_formatA f nnn
  exact ⟨by rw [Word.family_eq]; omega, BitVec.eq_of_toNat_eq (by rw [Word.toNat_fieldNNN]; omega)⟩

/-- The fields of an opcode of format XKK or X. -/
theorem fields_formatXKK (f : BitVec 4) (x : Reg) (kk : Byte) :
    (formatXKK f x kk).family = f.toNat ∧ (formatXKK f x kk).fieldX = x ∧ (formatXKK f x kk).fieldKK = kk := by
  have h := toNat_formatXKK f x kk
  have hx := x.isLt
  exact ⟨by rw [Word.family_eq]; omega, Fin.ext (by rw [Word.val_fieldX]; omega),
    BitVec.eq_of_toNat_eq (by rw [Word.toNat_fieldKK]; omega)⟩

/-- The fields of an opcode of format XY0, XYZ or XYN. -/
theorem fields_formatXYN (f : BitVec 4) (x y : Reg) (n : BitVec 4) :
    (formatXYN f x y n).family = f.toNat ∧ (formatXYN f x y n).fieldX = x ∧ (formatXYN f x y n).fieldY = y ∧
      (formatXYN f x y n).fieldN = n.toNat := by
  have h := toNat_formatXYN f x y n
  have hx := x.isLt
  have hy := y.isLt
  exact ⟨by rw [Word.family_eq]; omega, Fin.ext (by rw [Word.val_fieldX]; omega),
    Fin.ext (by rw [Word.val_fieldY]; omega), by rw [Word.fieldN_eq]; omega⟩

/-- The big-endian value of two bytes (R53). -/
theorem toNat_wordOfBytes (hi lo : Byte) : (wordOfBytes hi lo).toNat = hi.toNat * 256 + lo.toNat :=
  toNat_append_eq hi lo

/-- An opcode is its two bytes in fetch order. -/
@[simp] theorem wordOfBytes_hi_lo (op : Word) : wordOfBytes op.hiByte op.loByte = op := by
  apply BitVec.eq_of_toNat_eq
  rw [toNat_wordOfBytes, Word.toNat_hiByte, Word.toNat_loByte]; omega

/-! ### The selecting bits of each format -/

theorem and_append_eq {n m : Nat} (x a : BitVec n) (y b : BitVec m) :
    (x ++ y) &&& (a ++ b) = (x &&& a) ++ (y &&& b) := by
  ext i hi; simp only [BitVec.getElem_and, BitVec.getElem_append]; split <;> rfl

/-- All bits of a nibble kept. -/
@[simp] theorem and_fifteen (f : BitVec 4) : f &&& 15#4 = f := BitVec.and_allOnes

/-- All bits of a byte kept. -/
@[simp] theorem and_255 (k : Byte) : k &&& 255#8 = k := BitVec.and_allOnes

/-- Mask 0xF000 of formats A, XKK and XYN: the leading nibble. -/
theorem formatA_and_family (f : BitVec 4) (nnn : Addr12) : formatA f nnn &&& 0xF000 = f ++ 0#12 := by
  refine (and_append_eq f 0xF#4 nnn 0#12).trans ?_
  simp

theorem formatXKK_and_family (f : BitVec 4) (x : Reg) (kk : Byte) :
    formatXKK f x kk &&& 0xF000 = f ++ 0#4 ++ 0#8 := by
  refine (and_append_eq (f ++ x.bits) (0xF#4 ++ 0#4) kk 0#8).trans ?_
  rw [and_append_eq]; simp

theorem formatXYN_and_family (f : BitVec 4) (x y : Reg) (n : BitVec 4) :
    formatXYN f x y n &&& 0xF000 = f ++ 0#4 ++ 0#4 ++ 0#4 := by
  refine (and_append_eq (f ++ x.bits ++ y.bits) (0xF#4 ++ 0#4 ++ 0#4) n 0#4).trans ?_
  rw [and_append_eq, and_append_eq]; simp

/-- Mask 0xF0FF of format X: the leading nibble and the selector byte. -/
theorem formatXKK_and_selector (f : BitVec 4) (x : Reg) (kk : Byte) :
    formatXKK f x kk &&& 0xF0FF = f ++ 0#4 ++ kk := by
  refine (and_append_eq (f ++ x.bits) (0xF#4 ++ 0#4) kk 0xFF#8).trans ?_
  rw [and_append_eq]; simp

/-- Mask 0xF00F of formats XY0 and XYZ: the leading and the last nibble. -/
theorem formatXYN_and_selector (f : BitVec 4) (x y : Reg) (n : BitVec 4) :
    formatXYN f x y n &&& 0xF00F = f ++ 0#4 ++ 0#4 ++ n := by
  refine (and_append_eq (f ++ x.bits ++ y.bits) (0xF#4 ++ 0#4 ++ 0#4) n 0xF#4).trans ?_
  rw [and_append_eq, and_append_eq]; simp

end Sys2Proof
end

