-- ==== Sys2Proof/Laws/Flags.lean ====
section
/-! SUPPORT. The results and flags of Machine/Flags.lean and the timers as arithmetic on the bytes' values. -/

namespace Sys2Proof.Machine

/-- The carry flag's byte (R147). -/
theorem flagByte_carryOut (a b : Byte) : flagByte (carryOut a b) = if 255 < a.toNat + b.toNat then 1 else 0 := by
  unfold flagByte carryOut; split <;> simp_all

/-- The not-borrow flag's byte (R148, R150). -/
theorem flagByte_notBorrow (a b : Byte) : flagByte (notBorrow a b) = if b.toNat < a.toNat then 1 else 0 := by
  unfold flagByte notBorrow; split <;> simp_all

/-- A flag's byte is 0 or 1 (R22). -/
theorem flagByte_cases (f : Bool) : flagByte f = 0 ∨ flagByte f = 1 := by
  cases f <;> simp [flagByte]

/-- The decimal digits of a byte are three bytes (R173). -/
@[simp] theorem length_bcdDigits (v : Byte) : (bcdDigits v).length = 3 := rfl

/-- A decremented timer's value (R211). -/
theorem toNat_timerDown (t : Byte) : (timerDown t).toNat = t.toNat - 1 := by
  unfold timerDown
  split
  · simp_all
  · have h : t.toNat ≠ 0 := fun e => ‹¬ t = 0› (BitVec.eq_of_toNat_eq e)
    bv_omega

/-- A timer's value after n ticks (R211, R238). -/
theorem toNat_timerAfter (n : Nat) (t : Byte) : (timerAfter n t).toNat = t.toNat - n := by
  unfold timerAfter
  split
  · simp_all
  · rw [BitVec.toNat_ofNat]; omega

/-- The reset contents of an address without the order of the tests (R231, decision D11). -/
theorem Memory.resetByte_eq (a : Nat) : Memory.resetByte a =
    if h : Config.fontBase.val ≤ a ∧ a - Config.fontBase.val < 80 then Config.fontData ⟨a - Config.fontBase.val, h.2⟩
    else 0 := by
  have := Config.fontBase.isLt
  unfold Memory.resetByte
  split
  · rw [dif_neg]; simp only [Config.loadBase] at *; omega
  · rfl

end Sys2Proof.Machine
end

