-- ==== Sys2Proof/Laws/PerInstr.lean ====
section
/-! SUPPORT. The family of per-instruction statements `MaskAndMatch`: the selecting bits of an instruction's opcode are the
match word its rule gives (spec/opcode_table.json "mask" and "match"). -/

namespace Sys2Proof.Laws.MaskAndMatch

/-- The bits of the encoding under the instruction's mask are its match word. -/
def Statement (i : Instr) : Prop := encode i &&& i.opcodeMask = i.opcodeMatch

theorem cls : Statement .cls := rfl
theorem ret : Statement .ret := rfl
theorem jp (nnn : Addr12) : Statement (.jp nnn) := formatA_and_family 0x1 nnn
theorem call (nnn : Addr12) : Statement (.call nnn) := formatA_and_family 0x2 nnn
theorem seImm (x : Reg) (kk : Byte) : Statement (.seImm x kk) := formatXKK_and_family 0x3 x kk
theorem sneImm (x : Reg) (kk : Byte) : Statement (.sneImm x kk) := formatXKK_and_family 0x4 x kk
theorem seReg (x : Reg) (y : Reg) : Statement (.seReg x y) := formatXYN_and_selector 0x5 x y 0x0
theorem ldImm (x : Reg) (kk : Byte) : Statement (.ldImm x kk) := formatXKK_and_family 0x6 x kk
theorem addImm (x : Reg) (kk : Byte) : Statement (.addImm x kk) := formatXKK_and_family 0x7 x kk
theorem ldReg (x : Reg) (y : Reg) : Statement (.ldReg x y) := formatXYN_and_selector 0x8 x y 0x0
theorem or (x : Reg) (y : Reg) : Statement (.or x y) := formatXYN_and_selector 0x8 x y 0x1
theorem and (x : Reg) (y : Reg) : Statement (.and x y) := formatXYN_and_selector 0x8 x y 0x2
theorem xor (x : Reg) (y : Reg) : Statement (.xor x y) := formatXYN_and_selector 0x8 x y 0x3
theorem addReg (x : Reg) (y : Reg) : Statement (.addReg x y) := formatXYN_and_selector 0x8 x y 0x4
theorem sub (x : Reg) (y : Reg) : Statement (.sub x y) := formatXYN_and_selector 0x8 x y 0x5
theorem shr (x : Reg) (y : Reg) : Statement (.shr x y) := formatXYN_and_selector 0x8 x y 0x6
theorem subn (x : Reg) (y : Reg) : Statement (.subn x y) := formatXYN_and_selector 0x8 x y 0x7
theorem shl (x : Reg) (y : Reg) : Statement (.shl x y) := formatXYN_and_selector 0x8 x y 0xE
theorem sneReg (x : Reg) (y : Reg) : Statement (.sneReg x y) := formatXYN_and_selector 0x9 x y 0x0
theorem ldI (nnn : Addr12) : Statement (.ldI nnn) := formatA_and_family 0xA nnn
theorem jpV0 (nnn : Addr12) : Statement (.jpV0 nnn) := formatA_and_family 0xB nnn
theorem rnd (x : Reg) (kk : Byte) : Statement (.rnd x kk) := formatXKK_and_family 0xC x kk
theorem drw (x : Reg) (y : Reg) (n : Nat) : Statement (.drw x y n) := formatXYN_and_family 0xD x y _
theorem skp (x : Reg) : Statement (.skp x) := formatXKK_and_selector 0xE x 0x9E
theorem sknp (x : Reg) : Statement (.sknp x) := formatXKK_and_selector 0xE x 0xA1
theorem ldVxDt (x : Reg) : Statement (.ldVxDt x) := formatXKK_and_selector 0xF x 0x07
theorem ldVxK (x : Reg) : Statement (.ldVxK x) := formatXKK_and_selector 0xF x 0x0A
theorem ldDtVx (x : Reg) : Statement (.ldDtVx x) := formatXKK_and_selector 0xF x 0x15
theorem ldStVx (x : Reg) : Statement (.ldStVx x) := formatXKK_and_selector 0xF x 0x18
theorem addIVx (x : Reg) : Statement (.addIVx x) := formatXKK_and_selector 0xF x 0x1E
theorem ldFVx (x : Reg) : Statement (.ldFVx x) := formatXKK_and_selector 0xF x 0x29
theorem ldBVx (x : Reg) : Statement (.ldBVx x) := formatXKK_and_selector 0xF x 0x33
theorem ldMemVx (x : Reg) : Statement (.ldMemVx x) := formatXKK_and_selector 0xF x 0x55
theorem ldVxMem (x : Reg) : Statement (.ldVxMem x) := formatXKK_and_selector 0xF x 0x65

end Sys2Proof.Laws.MaskAndMatch
end

