-- ==== Sys2Proof/Machine/Assembly.lean ====
section
/-! DEFINITION. The assembly text of an instruction and the assembling of a listing into a program image
(spec/30_encoding.md R92, R93; decision D26). No instruction's meaning reads any of this: the text has no semantics. -/

namespace Sys2Proof.Machine

/-- A hexadecimal digit, with capital letters. -/
def hexDigit (n : Nat) : Char := Char.ofNat (if n < 10 then 48 + n else 55 + n)

/-- The last `d` hexadecimal digits of a number. -/
def hexDigits : Nat → Nat → List Char
  | 0, _ => []
  | d + 1, n => hexDigits d (n / 16) ++ [hexDigit (n % 16)]

/-- A hexadecimal immediate of d digits, prefixed `0x` (R92). -/
def hexText (d n : Nat) : String := "0x" ++ String.ofList (hexDigits d n)

/-- `Vx`: V0 to VF (R92). -/
def regText (r : Reg) : String := "V" ++ String.ofList [hexDigit r.val]

/-- `n` of Dxyn, 0 to 15, in decimal (R92). -/
def countText (n : Nat) : String :=
  if n < 10 then String.ofList [hexDigit n] else String.ofList [hexDigit (n / 10), hexDigit (n % 10)]

/-- A mnemonic with one register operand. -/
def textX (m : String) (x : Reg) : String := m ++ " " ++ regText x

/-- A mnemonic with two operands. -/
def text2 (m a b : String) : String := m ++ " " ++ a ++ ", " ++ b

/-- A mnemonic with `Vx, Vy`. -/
def textXY (m : String) (x y : Reg) : String := text2 m (regText x) (regText y)

/-- A mnemonic with `Vx, kk`. -/
def textXKK (m : String) (x : Reg) (kk : Byte) : String := text2 m (regText x) (hexText 2 kk.toNat)

/-- A shift, which leaves y out when it is 0: `SHR Vx` assembles with y = 0 (R92). -/
def textShift (m : String) (x y : Reg) : String := if y = 0 then textX m x else textXY m x y

/-- An instruction's assembly text (R92). -/
def instrText : Instr → String
  | .cls => "CLS"
  | .ret => "RET"
  | .jp nnn => "JP " ++ hexText 3 nnn.toNat
  | .call nnn => "CALL " ++ hexText 3 nnn.toNat
  | .seImm x kk => textXKK "SE" x kk
  | .sneImm x kk => textXKK "SNE" x kk
  | .seReg x y => textXY "SE" x y
  | .ldImm x kk => textXKK "LD" x kk
  | .addImm x kk => textXKK "ADD" x kk
  | .ldReg x y => textXY "LD" x y
  | .or x y => textXY "OR" x y
  | .and x y => textXY "AND" x y
  | .xor x y => textXY "XOR" x y
  | .addReg x y => textXY "ADD" x y
  | .sub x y => textXY "SUB" x y
  | .shr x y => textShift "SHR" x y
  | .subn x y => textXY "SUBN" x y
  | .shl x y => textShift "SHL" x y
  | .sneReg x y => textXY "SNE" x y
  | .ldI nnn => text2 "LD" "I" (hexText 3 nnn.toNat)
  | .jpV0 nnn => text2 "JP" "V0" (hexText 3 nnn.toNat)
  | .rnd x kk => textXKK "RND" x kk
  | .drw x y n => textXY "DRW" x y ++ ", " ++ countText n
  | .skp x => textX "SKP" x
  | .sknp x => textX "SKNP" x
  | .ldVxDt x => text2 "LD" (regText x) "DT"
  | .ldVxK x => text2 "LD" (regText x) "K"
  | .ldDtVx x => text2 "LD" "DT" (regText x)
  | .ldStVx x => text2 "LD" "ST" (regText x)
  | .addIVx x => text2 "ADD" "I" (regText x)
  | .ldFVx x => text2 "LD" "F" (regText x)
  | .ldBVx x => text2 "LD" "B" (regText x)
  | .ldMemVx x => text2 "LD" "[I]" (regText x)
  | .ldVxMem x => text2 "LD" (regText x) "[I]"

/-- The four instructions with an address operand, where a label may stand for it (R93). -/
inductive AddressForm where
  | jp
  | call
  | ldI
  | jpV0
  deriving DecidableEq, Repr

/-- The instruction of such a form at an address. -/
def AddressForm.at : AddressForm → Addr12 → Instr
  | .jp, nnn => .jp nnn
  | .call, nnn => .call nnn
  | .ldI, nnn => .ldI nnn
  | .jpV0, nnn => .jpV0 nnn

/-- One line of a listing (R93). -/
inductive AsmLine where
  /-- a label: the address of the line that follows -/
  | label (name : String)
  /-- an instruction -/
  | instr (i : Instr)
  /-- an instruction whose address operand is a label -/
  | withLabel (form : AddressForm) (name : String)
  /-- `DB kk`: one data byte -/
  | db (kk : Byte)
  deriving DecidableEq, Repr

/-- The bytes a line takes. -/
def AsmLine.size : AsmLine → Nat
  | .label _ => 0
  | .instr _ => 2
  | .withLabel _ _ => 2
  | .db _ => 1

/-- The address of a label in a listing placed at `a`: none if there is no such label or its address does not fit in 12
bits. -/
def labelAddress (name : String) : Nat → List AsmLine → Option Addr12
  | _, [] => none
  | a, .label other :: rest =>
    if other = name ∧ a ≤ Config.lastAddr then some (BitVec.ofNat 12 a) else labelAddress name a rest
  | a, line :: rest => labelAddress name (a + line.size) rest

/-- An opcode's two bytes, high byte first (R54). -/
def opcodeBytes (op : Word) : List Byte := [op.hiByte, op.loByte]

/-- The bytes of one line, the labels looked up in the whole listing. -/
def assembleLine (listing : List AsmLine) : AsmLine → Option (List Byte)
  | .label _ => some []
  | .instr i => if i.wellFormed then some (opcodeBytes (encode i)) else none
  | .withLabel form name =>
    (labelAddress name Config.loadBase listing).map fun nnn => opcodeBytes (encode (form.at nnn))
  | .db kk => some [kk]

/-- The program image of a listing placed at LOAD_BASE: none where a label is unknown or an operand ill formed. -/
def assemble (listing : List AsmLine) : Option (List Byte) := (listing.mapM (assembleLine listing)).map List.flatten

end Sys2Proof.Machine
end

