-- ==== Sys2Proof/Tests/Slice0.lean ====
section
/-! SUPPORT. Small tests. The expected results are the vectors of spec/95_test_vectors.md, whose id stands before each test,
or are worked out by hand from the rule named; and witnesses, one or more for each statement with hypotheses. -/

namespace Sys2Proof.Tests

open Sys2Proof Sys2Proof.Machine

/-! ### Well-formedness refuses ill-formed terms -/

theorem test_wf_draw_count_16 : (Instr.drw 1 2 16).wellFormed = false := by decide
theorem test_wf_draw_count_15 : (Instr.drw 1 2 15).wellFormed = true := by decide
-- D-5, D-7
theorem test_illegal_family_0 : [0x0000, 0x00E1, 0x00EF, 0x00FF, 0x0123, 0x0FFF, 0x01E0].all (!legalOpcode ·) := by decide
-- D-8, D-9
theorem test_illegal_family_5_9 : [0x5121, 0x512F, 0x9128].all (!legalOpcode ·) := by decide
-- D-11
theorem test_illegal_family_8 :
    [0x8128, 0x8129, 0x812A, 0x812B, 0x812C, 0x812D, 0x812F].all (!legalOpcode ·) := by decide
-- D-12
theorem test_illegal_family_E : [0xE09F, 0xE0A2, 0xE000].all (!legalOpcode ·) := by decide
-- D-14
theorem test_illegal_family_F : [0xF000, 0xF008, 0xF075, 0xF0FF, 0xFFFF].all (!legalOpcode ·) := by decide
-- R233: len ≤ 3584
theorem test_image_too_large : imageFits (List.replicate 3585 0) = false := by
  rw [imageFits, List.length_replicate]; rfl
theorem test_image_largest : imageFits (List.replicate 3584 0) = true := by
  rw [imageFits, List.length_replicate]; rfl

/-! ### Decoding: every constructor, from a word written out by R76 and R79 -/

-- D-1, D-2: 1 nnn
theorem test_decode_1234 : decode [0x12, 0x34] = .ok (.jp 0x234, []) := by decide
-- D-6: N
theorem test_decode_cls_ret : decodeWord 0x00E0 = some .cls ∧ decodeWord 0x00EE = some .ret := by decide
-- A: FFFF nnnn nnnn nnnn (D-16 for Bnnn)
theorem test_decode_A : decodeWord 0b0010_1010_1011_1100 = some (.call 0xABC) ∧
    decodeWord 0b1010_0001_0010_0011 = some (.ldI 0x123) ∧ decodeWord 0xB123 = some (.jpV0 0x123) := by decide
-- XKK: FFFF xxxx kkkk kkkk
theorem test_decode_XKK : decodeWord 0b0011_0011_0100_0010 = some (.seImm 3 0x42) ∧
    decodeWord 0b0100_0011_0100_0010 = some (.sneImm 3 0x42) ∧ decodeWord 0b0110_1010_0010_1011 = some (.ldImm 10 0x2B) ∧
    decodeWord 0b0111_0001_0000_0010 = some (.addImm 1 2) ∧ decodeWord 0b1100_0011_0000_1111 = some (.rnd 3 0x0F) := by
  decide
-- D-8, D-9: XY0
theorem test_decode_XY0 : decodeWord 0x5120 = some (.seReg 1 2) ∧ decodeWord 0x9120 = some (.sneReg 1 2) := by decide
-- D-10: XYZ
theorem test_decode_XYZ : decodeWord 0x8120 = some (.ldReg 1 2) ∧ decodeWord 0x8121 = some (.or 1 2) ∧
    decodeWord 0x8122 = some (.and 1 2) ∧ decodeWord 0x8123 = some (.xor 1 2) ∧ decodeWord 0x8124 = some (.addReg 1 2) ∧
    decodeWord 0x8125 = some (.sub 1 2) ∧ decodeWord 0x8126 = some (.shr 1 2) ∧ decodeWord 0x8127 = some (.subn 1 2) ∧
    decodeWord 0x812E = some (.shl 1 2) := by decide
-- D-15: XYN
theorem test_decode_XYN : decodeWord 0xD120 = some (.drw 1 2 0) ∧ decodeWord 0b1101_0001_0010_1111 = some (.drw 1 2 15) := by
  decide
-- D-12: X, the E family
theorem test_decode_E : decodeWord 0xE09E = some (.skp 0) ∧ decodeWord 0xE0A1 = some (.sknp 0) ∧
    decodeWord 0xE19E = some (.skp 1) := by decide
-- D-13 with x = 3: X, the F family
theorem test_decode_F : decodeWord 0xF307 = some (.ldVxDt 3) ∧ decodeWord 0xF30A = some (.ldVxK 3) ∧
    decodeWord 0xF315 = some (.ldDtVx 3) ∧ decodeWord 0xF318 = some (.ldStVx 3) ∧ decodeWord 0xF31E = some (.addIVx 3) ∧
    decodeWord 0xF329 = some (.ldFVx 3) ∧ decodeWord 0xF333 = some (.ldBVx 3) ∧ decodeWord 0xF355 = some (.ldMemVx 3) ∧
    decodeWord 0xF365 = some (.ldVxMem 3) := by decide
-- L1-10, D-9: refused by name
theorem test_decode_refuses : decode [0xFF, 0xFF] = .error (.invalidOpcode 0xFFFF) ∧
    decode [0x91, 0x28] = .error (.invalidOpcode 0x9128) ∧ decode [0x12] = .error .tooShort := by decide
-- D-17: the valid values of the families with a selector
theorem test_count_family_F : ((List.range 4096).filter fun k => legalOpcode (BitVec.ofNat 16 (0xF000 + k))).length = 144 := by
  decide +kernel
theorem test_table_word : decodeTableWord 16 0x8125 = some (.sub 1 2) ∧ decodeTableWord 16 0x0000 = none := by decide

/-! ### Helpers: a state with one opcode at pc, and one field of a step's next state -/

/-- The reset state with pc at `a`, an opcode stored there, and then changed by `f`. -/
def startAt (a : Nat) (op : Word) (f : State → State := id) : State :=
  f ({ State.reset with pc := BitVec.ofNat 16 a }.storeOpcode a op)

/-- The same at 0x200. -/
def start (op : Word) (f : State → State := id) : State := startAt 0x200 op f

/-- What `g` reads from the next state, if there is one. -/
def after {α : Type} (o : Host.Outcome State Fault Refusal) (g : State → α) : Option α :=
  match o with
  | .next t => some (g t)
  | .fault _ => none
  | .refused _ => none

/-- Registers Va and Vb set. -/
def regs (a : Reg) (va : Byte) (b : Reg) (vb : Byte) (s : State) : State := (s.setReg a va).setReg b vb

/-- V1, VF. -/
def v1f (t : State) : Byte × Byte := (t.reg 1, t.reg .vF)

/-- The fault record with these fields. -/
def record (k : FaultKind) (pc : Word) (op addr : Option Word) : Option FaultRecord :=
  some { kind := k, pc := pc, opcode := op, addr := addr }

/-! ### Control transfer -/

-- C-1
theorem test_C1_cls : after (step (start 0x00E0)) (fun t => (t.io, t.pc)) = some ([.clear], 0x202) := by decide
-- C-2
theorem test_C2_cls_at_top : after (step (startAt 0xFFE 0x00E0)) (fun t => (t.io, t.pc, t.fault)) =
    some ([.clear], 0xFFE, record .memoryOutOfBounds 0xFFE (some 0x00E0) (some 0x1000)) := by decide
-- C-3
theorem test_C3_ret : after (step (start 0x00EE fun s => { s with sp := 1, stack := s.stack.set 0 0x206 }))
    (fun t => (t.pc, t.sp, t.stack[0])) = some (0x206, 0, 0x206) := by decide
-- C-4, F-6
theorem test_C4_ret_empty : after (step (start 0x00EE)) (·.fault) = some (record .stackUnderflow 0x200 (some 0x00EE) none) := by
  decide
-- C-6
theorem test_C6_jp : after (step (start 0x1234)) (·.pc) = some 0x234 := by decide
-- C-11
theorem test_C11_call : after (step (start 0x2300 fun s => { s with sp := 15 })) (fun t => (t.stack[15], t.sp, t.pc)) =
    some (0x202, 16, 0x300) := by decide
-- F-5
theorem test_F5_call_full : after (step (startAt 0xFFE 0x2FFE fun s => { s with sp := 16 })) (fun t => (t.fault, t.sp)) =
    some (record .stackOverflow 0xFFE (some 0x2FFE) none, 16) := by decide
-- C-18
theorem test_C18_jp_v0 : after (step (start 0xB123 (regs 0 0 1 0x50))) (·.pc) = some 0x123 := by decide
-- C-17
theorem test_C17_jp_v0_beyond : after (step (start 0xBFFF (·.setReg 0 0xFF))) (fun t => (t.fault, t.pc)) =
    some (record .memoryOutOfBounds 0x200 (some 0xBFFF) (some 0x10FE), 0x200) := by decide

/-! ### Skips -/

-- S-1
theorem test_S1_se_imm : after (step (start 0x3342 (·.setReg 3 0x42))) (·.pc) = some 0x204 := by decide
-- S-12
theorem test_S12_se_imm_at_top : after (step (startAt 0xFFC 0x3000)) (fun t => (t.fault, t.pc)) =
    some (record .memoryOutOfBounds 0xFFC (some 0x3000) (some 0x1000), 0xFFC) := by decide
-- S-3
theorem test_S3_sne_imm : after (step (start 0x4342 (·.setReg 3 0x41))) (·.pc) = some 0x204 := by decide
-- S-6
theorem test_S6_se_reg : after (step (start 0x5120 (regs 1 7 2 8))) (·.pc) = some 0x202 := by decide
-- S-8
theorem test_S8_sne_reg : after (step (start 0x9120 (regs 1 7 2 8))) (·.pc) = some 0x204 := by decide
-- S-17, S-20: the whole of Vx is the key asked for
theorem test_S20_skp_up (h : Config.keyDown 0 [] 0x20 = false) :
    after (exec (.skp 5) (State.reset.setReg 5 0x20)) (fun t => (t.pc, t.io)) = some (0x202, [.isDown 0x20 false]) := by
  have ha : (State.reset.setReg 5 0x20).advance.downAnswer ((State.reset.setReg 5 0x20).advance.reg 5) = false := h
  simp only [exec, execSkp, runEffect, State.requestDown, ha]; rfl
-- S-18
theorem test_S18_sknp_up (h : Config.keyDown 0 [] 0x0A = false) :
    after (exec (.sknp 5) (State.reset.setReg 5 0x0A)) (fun t => (t.pc, t.io)) = some (0x204, [.isDown 0x0A false]) := by
  have ha : (State.reset.setReg 5 0x0A).advance.downAnswer ((State.reset.setReg 5 0x0A).advance.reg 5) = false := h
  simp only [exec, execSknp, runEffect, State.requestDown, ha]; rfl

/-! ### Loads, arithmetic and logic -/

-- A-2
theorem test_A2_ld_imm : after (step (start 0x6FAA)) (·.reg .vF) = some 0xAA := by decide
-- A-3
theorem test_A3_add_imm : after (step (start 0x7102 (regs 1 0xFF 15 0x77))) v1f = some (0x01, 0x77) := by decide
-- A-6
theorem test_A6_ld_reg : after (step (start 0x8120 (·.setReg 2 0x55))) (·.reg 1) = some 0x55 := by decide
-- A-7, VF kept
theorem test_A7_or : after (step (start 0x8121 fun s => (regs 1 0xF0 2 0x0F s).setReg 15 0x77)) v1f = some (0xFF, 0x77) := by
  decide
-- A-8
theorem test_A8_and : after (step (start 0x8122 fun s => (regs 1 0xF3 2 0x3F s).setReg 15 0x77)) v1f = some (0x33, 0x77) := by
  decide
-- A-9
theorem test_A9_xor : after (step (start 0x8123 fun s => (regs 1 0xFF 2 0x0F s).setReg 15 0x77)) v1f = some (0xF0, 0x77) := by
  decide
-- A-12
theorem test_A12_add : after (step (start 0x8124 (regs 1 0x80 2 0x80))) v1f = some (0x00, 1) := by decide
-- A-15: the flag is written last
theorem test_A15_add_vF : after (step (start 0x8F14 (regs 15 0xFF 1 0x01))) (·.reg .vF) = some 1 := by decide
-- A-18
theorem test_A18_sub : after (step (start 0x8125 (regs 1 3 2 5))) v1f = some (0xFE, 0) := by decide
-- A-19: strictly greater
theorem test_A19_sub_equal : after (step (start 0x8125 (regs 1 7 2 7))) v1f = some (0, 0) := by decide
-- A-24: y is not read
theorem test_A24_shr : after (step (start 0x81F6 (·.setReg 1 5))) v1f = some (2, 1) := by decide
-- A-26
theorem test_A26_shr_vF : after (step (start 0x8F06 (·.setReg 15 2))) (·.reg .vF) = some 0 := by decide
-- A-29
theorem test_A29_subn : after (step (start 0x8127 (regs 1 5 2 3))) v1f = some (0xFE, 0) := by decide
-- A-33, A-34
theorem test_A33_shl : after (step (start 0x810E (·.setReg 1 0x7F))) v1f = some (0xFE, 0) := by decide
theorem test_A34_shl_vF : after (step (start 0x8F0E (·.setReg 15 0x81))) (·.reg .vF) = some 1 := by decide
-- A-35: the byte answered, masked
theorem test_A35_rnd : after (step (start 0xC30F)) (fun t => (t.reg 3, t.io)) =
    some (Config.randomByte 1 [] &&& 0x0F, [.nextByte (Config.randomByte 1 [])]) := by rfl

/-! ### The index register and memory -/

-- M-2
theorem test_M2_ld_I : after (step (start 0xAFFF)) (·.I) = some 0xFFF := by decide
-- M-5
theorem test_M5_add_I_beyond : after (step (start 0xF21E fun s => { s.setReg 2 0x10 with I := 0xFF0 }))
    (fun t => (t.I, t.fault)) = some (0xFF0, record .memoryOutOfBounds 0x200 (some 0xF21E) (some 0x1000)) := by decide
-- M-6
theorem test_M6_add_I_vF : after (step (start 0xFF1E fun s => { s.setReg 15 1 with I := 0x300 }))
    (fun t => (t.I, t.reg .vF)) = some (0x301, 1) := by decide
-- M-9: the formula, not masked
theorem test_M9_font_address : fontAddr 0xFF = Config.fontBase.val + 1275 := by rfl
-- M-13
theorem test_M13_bcd : after (step (start 0xF033 fun s => { s.setReg 0 9 with I := 0xFFD }))
    (fun t => t.mem.getBytes 0xFFD 3) = some [0, 0, 9] := by decide
-- L1-5: the first bytes of memory, where the font table may lie
theorem test_M10_bcd_at_0 : after (exec (.ldBVx 0) (start 0xF033 (·.setReg 0 255))) (fun t => (t.mem.get 0, t.mem.get 1, t.mem.get 2)) =
    some (2, 5, 5) := by
  have hw : Memory.wf (start 0xF033 (·.setReg 0 255)).mem = true := by decide
  have hx : exec (.ldBVx 0) (start 0xF033 (·.setReg 0 255)) = runEffect (encode (.ldBVx 0)) (start 0xF033 (·.setReg 0 255))
      fun t => writeAtI t (bcdDigits (t.reg 0)) := rfl
  rw [hx, runEffect_of_ok (writeAtI_eq_ok (by decide)), State.finish_of_le _ (by decide)]
  have g := fun b => Memory.get_setBytes (vs := [2, 5, 5]) hw (a := 0) (by decide) b
  simp only [after]
  exact congrArg some (Prod.ext (by exact g 0) (Prod.ext (by exact g 1) (by exact g 2)))
-- M-15
theorem test_M15_dump : after (step (start 0xF255 fun s => { (regs 0 1 1 2 s).setReg 2 3 with I := 0x300 }))
    (fun t => (t.mem.getBytes 0x300 4, t.I)) = some ([1, 2, 3, 0], 0x300) := by decide
-- F-4: the dump's own check before the final pc check
theorem test_F4_priority : after (step (startAt 0xFFE 0xF255 fun s => { s with I := 0xFFF })) (·.fault) =
    some (record .memoryOutOfBounds 0xFFE (some 0xF255) (some 0x1001)) := by decide
-- M-20
theorem test_M20_load : after (step (start 0xF265 fun s =>
      { s.setReg 3 0x44 with I := 0x300, mem := s.mem.setBytes 0x300 [1, 2, 3] }))
    (fun t => (t.reg 0, t.reg 1, t.reg 2, t.reg 3, t.I)) = some (1, 2, 3, 0x44, 0x300) := by decide
-- M-22
theorem test_M22_draw : after (step (start 0xD121 fun s => { regs 1 5 2 7 s with I := 0x300, mem := s.mem.set 0x300 0xF0 }))
    (fun t => (t.io, t.reg .vF)) =
    some ([.draw 5 7 [0xF0] (Config.collided 1 [] 5 7 [0xF0])], if Config.collided 1 [] 5 7 [0xF0] then 1 else 0) := by rfl
-- M-25
theorem test_M25_draw_beyond : after (step (start 0xD12F fun s => { s with I := 0xFF2 })) (fun t => (t.fault, t.io)) =
    some (record .memoryOutOfBounds 0x200 (some 0xD12F) (some 0x1000), []) := by decide

/-! ### Timers, the key wait and the host's ports -/

-- T-1
theorem test_T1_read_DT : after (exec (.ldVxDt 3) { State.reset with DT := 0x3C }) (·.reg 3) = some 0x3C := by decide
-- T-2, T-3
theorem test_T2_set_DT : after (step (start 0xF315 (·.setReg 3 0x3C))) (·.DT) = some 0x3C := by decide
theorem test_T3_set_ST : after (step (start 0xF318 (·.setReg 3 0x05))) (·.ST) = some 0x05 := by decide
-- T-4
theorem test_T4_no_key (h : Config.polledKey 0 [] = none) : after (exec (.ldVxK 2) State.reset) (fun t => (t.pc, t.io)) =
    some (0x200, [.pollPressed none]) := by
  have ha : State.reset.advance.pollAnswer = none := h
  simp only [exec, execLdVxK, runEffect, ha, State.requestPoll]; rfl
-- T-5
theorem test_T5_key_7 (h : Config.polledKey 0 [] = some 7) : after (exec (.ldVxK 2) State.reset) (fun t => (t.pc, t.reg 2)) =
    some (0x202, 7) := by
  have ha : State.reset.advance.pollAnswer = some 7 := h
  simp only [exec, execLdVxK, runEffect, ha, State.requestPoll]; rfl
-- T-8, T-10
theorem test_T8_tick : ({ State.reset with DT := 3 }.tick.DT, { State.reset with DT := 3 }.tick.ST) = (2, 0) := by decide
-- T-11
theorem test_T11_ticks : timerAfter 300 0xFF = 0 ∧ timerAfter 2 0x3C = 0x3A := by decide
-- F-2
theorem test_F2_faulted : step { State.reset with fault := record .invalidOpcode 0x200 (some 0xFFFF) none } =
    .fault (.latched { kind := .invalidOpcode, pc := 0x200, opcode := some 0xFFFF, addr := none }) := by rfl
-- F-3, F-8
theorem test_F3_invalid : after (step (start 0xFFFF)) (·.fault) = some (record .invalidOpcode 0x200 (some 0xFFFF) none) := by
  decide
theorem test_F8_empty_image : after (step State.reset) (·.fault) = some (record .invalidOpcode 0x200 (some 0) none) := by decide
-- F-7, F-9: from a faulted state
theorem test_F7_load : ({ State.reset with fault := record .stackUnderflow 0 none none, pc := 5 }.load [0x12, 0x00]).map
    (fun t : State => (t.pc, t.fault, t.mem.getBytes 0x200 2)) = some (0x200, none, [0x12, 0x00]) := by decide
-- the placing of an instruction: step runs it
theorem test_withFetchWord : after (step (State.reset.withFetchWord 16 0x6A2B)) (·.reg 10) = some 0x2B := by decide

/-! ### Assembly -/

-- the listing of P2, with labels: its image bytes are those that the spec gives
theorem test_P2_assembles : assemble [.instr (.ldImm 0 0), .instr (.ldImm 1 3), .label "loop", .withLabel .call "sub",
      .instr (.seReg 0 1), .withLabel .jp "loop", .label "end", .withLabel .jp "end", .label "sub", .instr (.addImm 0 1),
      .instr .ret] =
    some [0x60, 0x00, 0x61, 0x03, 0x22, 0x0C, 0x50, 0x10, 0x12, 0x04, 0x12, 0x0A, 0x70, 0x01, 0x00, 0xEE] := by decide
theorem test_text : instrText (.ldImm 10 0xFF) = "LD VA, 0xFF" ∧ instrText (.call 0x20C) = "CALL 0x20C" ∧
    instrText (.shl 12 0) = "SHL VC" ∧ instrText (.ldVxMem 2) = "LD V2, [I]" := by decide

/-! ### Witnesses: for each statement with hypotheses, concrete states and operands that meet them, each clause at a
boundary of its range -/

/-- A state that is not the reset state and meets the invariant: the largest I and pc, one pending return address. -/
def quiet : State := { State.reset with pc := 0xFFF, I := 0xFFF, sp := 1, stack := State.reset.stack.set 0 0x1000 }

theorem quiet_inv : quiet.Inv where
  memory := by decide
  pc := by decide
  index := by decide
  slots := by decide
  pending := by decide
  record := by intro r h; cases h

/-- A state at 0xFFB about to run 3000, V0 = 0, that meets the invariant. -/
def atSkip : State := startAt 0xFFB 0x3000

theorem atSkip_inv : atSkip.Inv where
  memory := by decide
  pc := by decide
  index := by decide
  slots := by decide
  pending := by decide
  record := by intro r h; cases h

-- DecodeOfEncodeIsTheInstruction, EncodeOfDecodeIsTheOpcode
theorem witness_wellFormed : (Instr.drw 1 2 15).wellFormed = true ∧ (Instr.drw 0 15 0).wellFormed = true := by decide
theorem witness_decodes : decodeWord 0x5120 = some (.seReg 1 2) ∧ decodeWord 0xFF65 = some (.ldVxMem 15) := by decide
-- MaskAndMatchSelectTheOperation: y is not under the mask
theorem witness_mask : (0x81F6 : Word) &&& (Instr.shr 0 0).opcodeMask = (Instr.shr 0 0).opcodeMatch ∧
    (0x00EE : Word) &&& Instr.ret.opcodeMask = Instr.ret.opcodeMatch := by decide
-- IllegalOpcodesFaultAtDecode
theorem witness_illegal : (start 0x5121).running ∧ fetch16 (start 0x5121) (start 0x5121).pc.toNat = .ok 0x5121 ∧
    legalOpcode 0x5121 = false := by decide
-- StepRunsTheDecodedInstruction, at the last address that can be fetched from
theorem witness_decodedStep : (startAt 0xFFE 0x00E0).running ∧ (startAt 0xFFE 0x00E0).pc.toNat ≤ 0xFFE ∧
    decodeWord (wordOfBytes ((startAt 0xFFE 0x00E0).mem.get (startAt 0xFFE 0x00E0).pc.toNat)
      ((startAt 0xFFE 0x00E0).mem.get ((startAt 0xFFE 0x00E0).pc.toNat + 1))) = some .cls := by decide
-- FetchIsBigEndianAndBounded: D-3, D-4 and one address beyond
theorem witness_fetch : fetch16 (startAt 0xFFE 0x1234) 0xFFE = .ok 0x1234 ∧
    fetch16 quiet 0xFFF = .error (.outOfBounds 0x1000) ∧ fetch16 quiet 0x1000 = .error (.outOfBounds 0x1000) := by
  refine ⟨by decide, rfl, rfl⟩
-- FetchAtTheLastAddressFaults
theorem witness_fetchAtTop : quiet.running ∧ quiet.pc = 0xFFF := by decide
-- FaultLatchesUntilReset, with a load that succeeds
theorem witness_latched : ∃ s : State, s.fault = record .stackOverflow 0x200 (some 0x2200) none ∧
    (∃ r, s.fault = some r) ∧ ∃ t, s.load [] = some t :=
  ⟨{ quiet with fault := record .stackOverflow 0x200 (some 0x2200) none }, rfl, ⟨_, rfl⟩, ⟨_, rfl⟩⟩
-- FaultsArePrecise: an instruction's fault after a request (C-2)
theorem witness_precise : ∃ t, (startAt 0xFFE 0x00E0).running ∧ step (startAt 0xFFE 0x00E0) = .next t ∧ t.fault ≠ none :=
  ⟨_, rfl, rfl, by decide⟩
-- FaultRecordDescribesTheStep, StepKeepsTheInvariant: both at a fetch fault
theorem witness_record : ∃ t r, quiet.Inv ∧ quiet.running ∧ step quiet = .next t ∧ t.fault = some r :=
  ⟨_, _, quiet_inv, rfl, rfl, rfl⟩
-- StepKeepsTheInvariant, at an instruction that completes
theorem witness_invStep : ∃ t, atSkip.Inv ∧ step atSkip = .next t ∧ t.running := ⟨_, atSkip_inv, rfl, rfl⟩
-- TickAndLoadKeepTheInvariant, LoadBuildsTheResetState: the longest image and one byte more
theorem witness_load : (∃ t, quiet.load (List.replicate 3584 0xFF) = some t) ∧
    (List.replicate 3584 (0xFF : Byte)).length ≤ 3584 ∧ 3584 < (List.replicate 3585 (0xFF : Byte)).length := by
  refine ⟨⟨_, if_pos ?_⟩, ?_, ?_⟩
  · rw [imageFits, List.length_replicate]; rfl
  · rw [List.length_replicate]
  · rw [List.length_replicate]; decide
-- EveryScheduleKeepsTheInvariant
theorem witness_schedule : ∃ t, atSkip.Inv ∧ serveAll [.tick, .step, .load [0x12, 0x00], .step, .tick] atSkip = .next t :=
  ⟨_, atSkip_inv, rfl⟩
-- InstructionsCompleteExactlyWhenTheirCheckPasses: each check on both sides of its bound
theorem witness_completion : (start 0x00E0).running ∧ (startAt 0xFFB 0).pc.toNat ≤ 0xFFB ∧
    ({ quiet with stack := quiet.stack.set 0 0xFFF }.passesOwnCheck .ret) ∧ ¬ State.reset.passesOwnCheck .ret ∧
    ¬ quiet.passesOwnCheck .ret ∧
    { quiet with sp := 15 }.passesOwnCheck (.call 0) ∧ ¬ { quiet with sp := 16 }.passesOwnCheck (.call 0) ∧
    (quiet.setReg 0 0xFF).passesOwnCheck (.jpV0 0xF00) ∧ ¬ (quiet.setReg 0 0xFF).passesOwnCheck (.jpV0 0xF01) ∧
    quiet.passesOwnCheck (.addIVx 0) ∧ ¬ (quiet.setReg 0 1).passesOwnCheck (.addIVx 0) ∧
    { quiet with I := 0xFFD }.passesOwnCheck (.ldBVx 0) ∧ ¬ { quiet with I := 0xFFE }.passesOwnCheck (.ldBVx 0) ∧
    quiet.passesOwnCheck (.ldMemVx 0) ∧ ¬ quiet.passesOwnCheck (.ldMemVx 1) ∧
    quiet.passesOwnCheck (.ldVxMem 0) ∧ ¬ quiet.passesOwnCheck (.ldVxMem 1) ∧
    quiet.passesOwnCheck (.drw 0 0 0) ∧ quiet.passesOwnCheck (.drw 0 0 1) ∧ ¬ quiet.passesOwnCheck (.drw 0 0 2) := by
  simp only [State.passesOwnCheck]; decide
-- SequentialInstructionsFaultAtTheTop
theorem witness_atTop : ∃ t, { quiet with pc := 0xFFE }.running ∧ ({ quiet with pc := 0xFFE } : State).pc = 0xFFE ∧
    exec (.jp 0x300) { quiet with pc := 0xFFE } = .next t ∧ t.running := ⟨_, rfl, rfl, rfl, rfl⟩
-- UnreadRegistersHaveNoInfluence: a destination that is not read, and VF in an instruction that does not name it
theorem witness_unread : ∃ t t', Instr.source (.ldReg 1 2) 1 = false ∧ Instr.source (.seReg 1 2) .vF = false ∧
    exec (.ldReg 1 2) State.reset = .next t ∧ exec (.ldReg 1 2) (State.reset.setReg 1 7) = .next t' :=
  ⟨_, _, by decide, by decide, rfl, rfl⟩
-- RequestsPerInstruction: a draw just inside and just past the end of memory
theorem witness_requests : ¬ (0 < 1 ∧ 0xFFF < quiet.I.toNat + 1 - 1) ∧ (0 < 2 ∧ 0xFFF < quiet.I.toNat + 2 - 1) ∧
    ∃ t, exec (.drw 0 0 2) quiet = .next t := ⟨by decide, by decide, _, rfl⟩
-- SpecialStateHasNoOtherWriter: each kind of state changes somewhere
theorem witness_writers : after (exec (.ldI 1) State.reset) (fun t => decide (t.I ≠ State.reset.I)) = some true ∧
    after (exec (.call 1) State.reset) (fun t => decide (t.sp ≠ 0 ∧ t.stack ≠ State.reset.stack)) = some true ∧
    after (exec (.ldDtVx 1) (State.reset.setReg 1 1)) (fun t => decide (t.DT ≠ 0)) = some true ∧
    after (exec (.ldStVx 1) (State.reset.setReg 1 1)) (fun t => decide (t.ST ≠ 0)) = some true ∧
    after (exec (.ldMemVx 0) { State.reset.setReg 0 1 with I := 0x300 }) (fun t => decide (t.mem.get 0x300 ≠ 0)) =
      some true := by decide
-- VFIsAFlagOrAnOrdinaryDestination, GeneralRegistersChangeOnlyAsDestinations
theorem witness_flags : (∃ t, exec (.addReg 15 1) State.reset = .next t ∧ t.running) ∧ Instr.writesFlag (.addReg 15 1) = true ∧
    (∃ t, exec (.addImm 1 2) State.reset = .next t ∧ t.running) ∧ Instr.writesFlag (.addImm 1 2) = false ∧
    Instr.destination (.addImm 1 2) .vF = false ∧ Instr.destination (.addImm 1 2) 0 = false ∧ (0 : Reg) ≠ .vF :=
  ⟨⟨_, rfl, rfl⟩, rfl, ⟨_, rfl, rfl⟩, rfl, by decide, by decide, by decide⟩
-- `Lands`: an instruction from 0xFFD ends inside memory, from 0xFFE above it
theorem witness_lands : ((0xFFD : Word) + 2).toNat ≤ 0xFFF ∧ 0xFFF < ((0xFFE : Word) + 2).toNat ∧
    ((0xFFB : Word) + 4).toNat ≤ 0xFFF ∧ 0xFFF < ((0xFFC : Word) + 4).toNat := by decide
-- RetPopsTheReturnAddress, CallPushesAndJumps: the shallowest and the deepest stack of each clause
theorem witness_stack : quiet.sp = (0 : Fin 16).succ ∧ ({ quiet with sp := 16 } : State).sp = (15 : Fin 16).succ ∧
    State.reset.sp = 0 ∧ State.reset.sp = (0 : Fin 16).castSucc ∧
    ({ quiet with sp := 15 } : State).sp = (15 : Fin 16).castSucc := by decide
-- JpV0AddsV0, AddToIndex
theorem witness_sums : (0xF00 : Addr12).toNat + ((quiet.setReg 0 0xFF).reg 0).toNat ≤ 0xFFF ∧
    0xFFF < (0xF01 : Addr12).toNat + ((quiet.setReg 0 0xFF).reg 0).toNat ∧ quiet.I.toNat + (quiet.reg 0).toNat ≤ 0xFFF ∧
    0xFFF < quiet.I.toNat + ((quiet.setReg 0 1).reg 0).toNat := by decide
-- ReturnUndoesCall: at 0xFFD, with a state in the subroutine that differs in its registers
theorem witness_callReturn : ∃ s u t : State, s.sp = (15 : Fin 16).castSucc ∧ s.pc.toNat ≤ 0xFFD ∧
    exec (.call 0x300) s = .next t ∧ u.sp = t.sp ∧ u.stack[15] = t.stack[15] ∧ u.V ≠ s.V :=
  ⟨{ quiet with sp := 15, pc := 0xFFD }, { quiet.setReg 4 4 with sp := 16, stack := quiet.stack.set 15 0xFFF }, _,
    rfl, by decide, rfl, rfl, by decide, by decide⟩
-- SelfLoopChangesOnlyTheTimers
theorem witness_selfLoop : (start 0x1200).running ∧ (start 0x1200).atSelfLoop := ⟨rfl, 0x200, by decide, by decide⟩
-- SkippedWordIsNeverDecoded: the last address a skip can be taken from, then each kind of condition
theorem witness_skip : atSkip.Inv ∧ atSkip.running ∧ atSkip.pc.toNat ≤ 0xFFB ∧
    fetch16 atSkip atSkip.pc.toNat = .ok (encode (.seImm 0 0x00)) ∧ atSkip.betweenSteps.takesSkip (.seImm 0 0x00) :=
  ⟨atSkip_inv, by decide, by decide, by decide, rfl⟩
theorem witness_skips : atSkip.betweenSteps.takesSkip (.sneImm 0 0x01) ∧ atSkip.betweenSteps.takesSkip (.seReg 0 1) ∧
    (atSkip.setReg 1 1).betweenSteps.takesSkip (.sneReg 0 1) := by
  simp only [State.takesSkip]; decide
-- whatever the keypad answers, one of the two key tests takes its skip
theorem witness_keySkips : atSkip.betweenSteps.takesSkip (.skp 0) ∨ atSkip.betweenSteps.takesSkip (.sknp 0) := by
  simp only [State.takesSkip]
  cases atSkip.betweenSteps.downAnswer (atSkip.betweenSteps.reg 0) <;> simp
-- BcdStore, RegisterDump, RegisterLoad, DrawSprite: the last range inside memory and the first past it
theorem witness_ranges : quiet.mem.wf = true ∧ (0xFFD : Word).toNat + 2 ≤ 0xFFF ∧ 0xFFF < (0xFFE : Word).toNat + 2 ∧
    (0xFF0 : Word).toNat + (15 : Reg).val ≤ 0xFFF ∧ 0xFFF < (0xFF1 : Word).toNat + (15 : Reg).val ∧
    (0xFF1 : Word).toNat + 15 - 1 ≤ 0xFFF ∧ 0xFFF < (0xFF2 : Word).toNat + 15 - 1 := by decide
-- DumpThenLoadRestores, StoredBytesAreFetched
theorem witness_dumpLoad : ∃ s u t : State, s.mem.wf = true ∧ s.I.toNat + (15 : Reg).val ≤ 0xFFF ∧ s.pc.toNat ≤ 0xFFD ∧
    u.pc.toNat ≤ 0xFFD ∧ u.I = s.I ∧ exec (.ldMemVx 15) s = .next t ∧ u.mem = t.mem ∧ u.V ≠ s.V ∧
    (14 : Reg).val + 1 = (15 : Reg).val ∧ (15 : Reg) ≤ 15 :=
  ⟨{ State.reset.setReg 15 9 with I := 0xFF0, pc := 0xFFD }, { State.reset with I := 0xFF0, mem := [(0xFFF, 9)] }, _,
    by decide, by decide, by decide, by decide, rfl, rfl, by decide, by decide, by decide, by decide⟩

end Sys2Proof.Tests
end

section
/-! PROOFS. An instruction's own effect as a function, and everything it can change, said once for all 34 instructions
(spec/30_encoding.md R85). -/

namespace Sys2Proof.Machine

/-! ### The effect of an instruction -/

/-- The instruction's own effect, between the pc advance and the final pc check (R85). -/
def effectOf (i : Instr) (t : State) : Raises State :=
  match i with
  | .cls => .ok t.requestClear
  | .ret => t.pop
  | .jp nnn => .ok (t.setPc (zextAddr nnn))
  | .call nnn => do return (← t.push).setPc (zextAddr nnn)
  | .seImm x kk => .ok (t.skipIf (t.reg x == kk))
  | .sneImm x kk => .ok (t.skipIf (t.reg x != kk))
  | .seReg x y => .ok (t.skipIf (t.reg x == t.reg y))
  | .ldImm x kk => .ok (t.setReg x kk)
  | .addImm x kk => .ok (t.setReg x (t.reg x + kk))
  | .ldReg x y => .ok (t.setReg x (t.reg y))
  | .or x y => .ok (t.setReg x (t.reg x ||| t.reg y))
  | .and x y => .ok (t.setReg x (t.reg x &&& t.reg y))
  | .xor x y => .ok (t.setReg x (t.reg x ^^^ t.reg y))
  | .addReg x y => .ok (t.setResult x (t.reg x + t.reg y) (carryOut (t.reg x) (t.reg y)))
  | .sub x y => .ok (t.setResult x (t.reg x - t.reg y) (notBorrow (t.reg x) (t.reg y)))
  | .shr x _ => .ok (t.setResult x (t.reg x >>> 1) (shiftedOutRight (t.reg x)))
  | .subn x y => .ok (t.setResult x (t.reg y - t.reg x) (notBorrow (t.reg y) (t.reg x)))
  | .shl x _ => .ok (t.setResult x (t.reg x <<< 1) (shiftedOutLeft (t.reg x)))
  | .sneReg x y => .ok (t.skipIf (t.reg x != t.reg y))
  | .ldI nnn => .ok (t.setI (zextAddr nnn))
  | .jpV0 nnn => .ok (t.setPc (zextAddr nnn + zextByte (t.reg .v0)))
  | .rnd x kk => .ok (t.requestRandom.setReg x (t.randomAnswer &&& kk))
  | .drw x y n => do
    let sprite ← readAtI t n
    return (t.requestDraw (t.reg x) (t.reg y) sprite).setFlag (t.drawAnswer (t.reg x) (t.reg y) sprite)
  | .skp x => .ok ((t.requestDown (t.reg x)).skipIf (t.downAnswer (t.reg x)))
  | .sknp x => .ok ((t.requestDown (t.reg x)).skipIf (!t.downAnswer (t.reg x)))
  | .ldVxDt x => .ok (t.setReg x t.DT)
  | .ldVxK x => .ok (match t.pollAnswer with
    | none => t.requestPoll.retry
    | some k => t.requestPoll.setReg x (BitVec.ofNat 8 k.val))
  | .ldDtVx x => .ok { t with DT := t.reg x }
  | .ldStVx x => .ok { t with ST := t.reg x }
  | .addIVx x => t.setIChecked (t.I.toNat + (t.reg x).toNat)
  | .ldFVx x => t.setIChecked (fontAddr (t.reg x))
  | .ldBVx x => writeAtI t (bcdDigits (t.reg x))
  | .ldMemVx x => writeAtI t (t.regsTo x)
  | .ldVxMem x => do return t.setRegs (← readAtI t (x.val + 1))

/-- Every instruction runs its effect between the pc advance and the final pc check. -/
theorem exec_eq_runEffect (i : Instr) (s : State) : exec i s = runEffect (encode i) s (effectOf i) := by
  cases i <;> rfl

/-! ### Everything an effect can change -/

/-- The instruction's effect can take `t` to the given state. One constructor per kind of change; each says which
instructions make it, and what it does not mention is unchanged. -/
inductive Changes (t : State) : Instr → State → Prop
  /-- pc and requests only: pc stays, skips (R120), is set by a jump, or goes back for an unanswered key wait (R191) -/
  | control (i : Instr) (pc : Word) (draws : Nat) (io : List Exchange) (hflag : i.writesFlag = false)
      (hpc : pc = t.pc ∨ pc = t.pc + 2 ∨ (∃ nnn, i = .jp nnn) ∨ (∃ nnn, i = .jpV0 nnn) ∨
        (∃ x, i = .ldVxK x) ∧ pc = t.pc - 2) :
      Changes t i { t with pc := pc, draws := draws, io := io }
  /-- one destination register, no flag -/
  | register (i : Instr) (x : Reg) (b : Byte) (draws : Nat) (io : List Exchange) (hflag : i.writesFlag = false)
      (hdest : i.destination x = true) : Changes t i { t.setReg x b with draws := draws, io := io }
  /-- a result and its flag (R22, R153) -/
  | result (i : Instr) (x : Reg) (b : Byte) (f : Bool) (hflag : i.writesFlag = true) (hdest : i.destination x = true) :
      Changes t i (t.setResult x b f)
  /-- the collision flag and the draw request (R176) -/
  | draw (x y : Reg) (n : Nat) (sprite : List Byte) (f : Bool) :
      Changes t (.drw x y n) ((t.requestDraw (t.reg x) (t.reg y) sprite).setFlag f)
  /-- V0 to Vx loaded (R175) -/
  | load (x : Reg) (bs : List Byte) (hlen : bs.length = x.val + 1) : Changes t (.ldVxMem x) (t.setRegs bs)
  /-- I set to an address (R24) -/
  | index (i : Instr) (w : Word) (hi : (∃ nnn, i = .ldI nnn) ∨ (∃ x, i = .addIVx x) ∨ ∃ x, i = .ldFVx x)
      (hw : w.toNat ≤ 0xFFF) : Changes t i (t.setI w)
  /-- a return address popped (R101) -/
  | pop (u : State) (h : t.pop = .ok u) : Changes t .ret u
  /-- the return address pushed (R103) -/
  | push (nnn : Addr12) (u : State) (h : t.push = .ok u) : Changes t (.call nnn) (u.setPc (zextAddr nnn))
  /-- the delay timer set (R192) -/
  | delay (x : Reg) : Changes t (.ldDtVx x) { t with DT := t.reg x }
  /-- the sound timer set (R193) -/
  | sound (x : Reg) : Changes t (.ldStVx x) { t with ST := t.reg x }
  /-- bytes stored from I up, all of them inside memory (R173, R174) -/
  | memory (i : Instr) (vs : List Byte) (hi : (∃ x, i = .ldBVx x) ∨ ∃ x, i = .ldMemVx x)
      (h : t.I.toNat + vs.length ≤ Config.memSize) : Changes t i { t with mem := t.mem.setBytes t.I.toNat vs }

theorem toNat_zextAddr_le (nnn : Addr12) : (zextAddr nnn).toNat ≤ 0xFFF := by
  have := nnn.isLt
  rw [zextAddr, BitVec.toNat_setWidth]; omega

/-- A computed I that is accepted changes I to an address. -/
theorem Changes.of_setIChecked {i : Instr} {t u : State} {a : Nat}
    (hi : (∃ nnn, i = .ldI nnn) ∨ (∃ x, i = .addIVx x) ∨ ∃ x, i = .ldFVx x) (h : t.setIChecked a = .ok u) :
    Changes t i u := by
  rcases t.setIChecked_cases a with ⟨ha, he⟩ | ⟨-, he⟩
  · obtain rfl := Except.ok.inj (he.symm.trans h)
    exact .index i _ hi (by rw [BitVec.toNat_ofNat]; omega)
  · rw [he] at h; cases h

/-- A store at I that is accepted changes memory only. -/
theorem Changes.of_writeAtI {i : Instr} {t u : State} {vs : List Byte} (hv : 0 < vs.length)
    (hi : (∃ x, i = .ldBVx x) ∨ ∃ x, i = .ldMemVx x) (h : writeAtI t vs = .ok u) : Changes t i u := by
  rcases writeAtI_cases t hv with ⟨hin, he⟩ | ⟨-, he⟩
  · obtain rfl := Except.ok.inj (he.symm.trans h)
    exact .memory i vs hi hin
  · rw [he] at h; cases h

/-- A skip, after whatever requests, changes pc and the requests only. -/
theorem Changes.of_skipIf {i : Instr} {t : State} (hflag : i.writesFlag = false) (c : Bool) (draws : Nat)
    (io : List Exchange) : Changes t i (({ t with draws := draws, io := io } : State).skipIf c) :=
  .control i _ _ _ hflag (by cases c <;> simp)

/-- Whatever an effect answers is one of the changes. -/
theorem effectOf_changes {i : Instr} {t u : State} (h : effectOf i t = .ok u) : Changes t i u := by
  cases i with
  | ret => exact .pop u h
  | call nnn =>
    rcases t.push_cases with ⟨_, he⟩ | ⟨_, he⟩ <;> simp only [effectOf, he] at h
    · obtain rfl := Except.ok.inj h; exact .push nnn _ he
    · cases h
  | addIVx x => exact .of_setIChecked (.inr (.inl ⟨x, rfl⟩)) h
  | ldFVx x => exact .of_setIChecked (.inr (.inr ⟨x, rfl⟩)) h
  | ldBVx x => exact .of_writeAtI (by simp) (.inl ⟨x, rfl⟩) h
  | ldMemVx x => exact .of_writeAtI (by simp) (.inr ⟨x, rfl⟩) h
  | ldVxMem x =>
    rcases readAtI_cases t (x.val + 1) with ⟨_, he⟩ | ⟨_, _, he⟩ <;> simp only [effectOf, he] at h
    · obtain rfl := Except.ok.inj h; exact .load x _ (by simp)
    · cases h
  | drw x y n =>
    rcases readAtI_cases t n with ⟨_, he⟩ | ⟨_, _, he⟩ <;> simp only [effectOf, he] at h
    · obtain rfl := Except.ok.inj h; exact .draw x y n _ _
    · cases h
  | ldVxK x =>
    obtain rfl := Except.ok.inj h
    cases t.pollAnswer with
    | none => exact .control _ _ _ _ rfl (by simp)
    | some k => exact .register _ x _ _ _ rfl (beq_self_eq_true x)
  | cls => obtain rfl := Except.ok.inj h; exact .control _ _ _ _ rfl (.inl rfl)
  | jp nnn => obtain rfl := Except.ok.inj h; exact .control _ _ _ _ rfl (by simp)
  | jpV0 nnn => obtain rfl := Except.ok.inj h; exact .control _ _ _ _ rfl (by simp)
  | ldI nnn => obtain rfl := Except.ok.inj h; exact .index _ _ (.inl ⟨nnn, rfl⟩) (toNat_zextAddr_le nnn)
  | ldDtVx x => obtain rfl := Except.ok.inj h; exact .delay x
  | ldStVx x => obtain rfl := Except.ok.inj h; exact .sound x
  | seImm | sneImm | seReg | sneReg | skp | sknp => obtain rfl := Except.ok.inj h; exact .of_skipIf rfl _ _ _
  | addReg x | sub x | shr x | subn x | shl x =>
    obtain rfl := Except.ok.inj h; exact .result _ x _ _ rfl (beq_self_eq_true x)
  | ldImm x | addImm x | ldReg x | or x | and x | xor x | rnd x | ldVxDt x =>
    obtain rfl := Except.ok.inj h; exact .register _ x _ _ _ rfl (beq_self_eq_true x)

/-- Everything an instruction can answer: one of its changes, with pc in memory, or a fault, raised by its effect or by the
final pc check. -/
theorem exec_cases {i : Instr} {s u : State} (h : exec i s = .next u) :
    (Changes s.advance i u ∧ u.pc.toNat ≤ 0xFFF) ∨
    ∃ now r, u = s.takeFault now (some (encode i)) r ∧
      (effectOf i s.advance = .error r ∨
        0xFFF < now.pc.toNat ∧ r = { kind := .memoryOutOfBounds, addr := some now.pc }) := by
  rw [exec_eq_runEffect] at h
  rcases runEffect_cases h with ⟨he, hp⟩ | ⟨r, he, hu⟩ | ⟨now, -, hp, hu⟩
  · exact .inl ⟨effectOf_changes he, hp⟩
  · exact .inr ⟨s, r, hu, .inl he⟩
  · exact .inr ⟨now, _, hu, .inr ⟨hp, rfl⟩⟩

/-- An instruction that ends without a fault has made one of its changes. -/
theorem changes_of_running {i : Instr} {s u : State} (h : exec i s = .next u) (hr : u.running) :
    Changes s.advance i u ∧ u.pc.toNat ≤ 0xFFF := by
  rcases exec_cases h with hc | ⟨now, r, rfl, -⟩
  · exact hc
  · cases hr

end Sys2Proof.Machine
end

section
/-! PROOFS. What the changes leave alone: the special state, VF, the general registers, and pc at the top of memory
(spec/10_state.md R20, R22, R28, R35). -/

open Sys2Proof Sys2Proof.Machine

namespace Sys2Proof.Machine

theorem ne_of_destination {i : Instr} {r x : Reg} (hr : i.destination r = false)
    (hx : i.destination x = true) : r ≠ x := by
  rintro rfl; simp [hr] at hx

/-! ### The stack operations -/

/-- A pop changes sp and pc. -/
theorem State.pop_frame {t u : State} (h : t.pop = .ok u) : u = { t with sp := u.sp, pc := u.pc } := by
  rcases t.pop_cases with ⟨-, he⟩ | ⟨-, he⟩
  · obtain rfl := Except.ok.inj (he.symm.trans h); rfl
  · rw [he] at h; cases h

/-- A push changes sp and the stack. -/
theorem State.push_frame {t u : State} (h : t.push = .ok u) : u = { t with sp := u.sp, stack := u.stack } := by
  rcases t.push_cases with ⟨_, he⟩ | ⟨-, he⟩
  · obtain rfl := Except.ok.inj (he.symm.trans h); rfl
  · rw [he] at h; cases h

/-! ### Registers -/

/-- A register that is not a destination keeps its value, unless it is VF and the instruction writes a flag. -/
theorem Changes.reg_eq {i : Instr} {t u : State} {r : Reg} (h : Changes t i u) (hd : i.destination r = false)
    (hf : i.writesFlag = false ∨ r ≠ .vF) : u.reg r = t.reg r := by
  cases h with
  | control | index | delay | sound | memory => rfl
  | pop _ he => rw [State.pop_frame he]; rfl
  | push _ v he =>
    have hv : v.reg r = t.reg r := by rw [State.push_frame he]; rfl
    exact hv
  | register _ x b _ _ _ hx => exact t.reg_setReg_ne b (ne_of_destination hd hx)
  | result _ x b f hw hx =>
    have hr : r ≠ .vF := hf.resolve_left (by simp [hw])
    calc (t.setResult x b f).reg r = (t.setReg x b).reg r := State.reg_setReg_ne _ _ hr
      _ = t.reg r := t.reg_setReg_ne b (ne_of_destination hd hx)
  | draw x y n sprite f => exact State.reg_setReg_ne _ _ (hf.resolve_left (by simp [Instr.writesFlag]))
  | load x bs hlen =>
    have hr : ¬ r.val ≤ x.val := of_decide_eq_false hd
    simp only [State.reg, State.setRegs_V, loadRegs_getElem]
    rw [dif_neg (by omega)]

/-- An instruction that writes a flag leaves it in VF. -/
theorem Changes.vF_eq_flagByte {i : Instr} {t u : State} (h : Changes t i u) (hw : i.writesFlag = true) :
    ∃ f, u.reg .vF = flagByte f := by
  cases h with
  | result _ x b f => exact ⟨f, State.reg_setReg_same _ _ _⟩
  | draw x y n sprite f => exact ⟨f, State.reg_setReg_same _ _ _⟩
  | control _ _ _ _ hf | register _ _ _ _ _ hf => simp [hw] at hf
  | index _ _ hi => rcases hi with ⟨_, rfl⟩ | ⟨_, rfl⟩ | ⟨_, rfl⟩ <;> cases hw
  | memory _ _ hi => rcases hi with ⟨_, rfl⟩ | ⟨_, rfl⟩ <;> cases hw
  | load | pop | push | delay | sound => cases hw

/-- Where a change leaves pc: at the following instruction, one further (a skip), or where a return, a jump, a call or an
unanswered key wait puts it. -/
theorem Changes.pc_cases {i : Instr} {t u : State} (h : Changes t i u) :
    u.pc = t.pc ∨ u.pc = t.pc + 2 ∨
    i = .ret ∨ (∃ nnn, i = .jp nnn) ∨ (∃ nnn, i = .call nnn) ∨ (∃ nnn, i = .jpV0 nnn) ∨
    ((∃ x, i = .ldVxK x) ∧ u.pc = t.pc - 2) := by
  cases h with
  | control _ _ _ _ _ hpc => simp only; tauto
  | pop => simp
  | push => simp
  | register | result | draw | load | index | delay | sound | memory => exact .inl rfl

end Sys2Proof.Machine

/-- Settles O23: only the destinations of a change differ; a fault keeps every register. -/
theorem generalRegistersChangeOnlyAsDestinations : Obligations.GeneralRegistersChangeOnlyAsDestinations := by
  intro i s t r h hr hd
  rcases exec_cases h with ⟨hc, -⟩ | ⟨now, f, rfl, -⟩
  · exact hc.reg_eq hd (.inr hr)
  · rfl

/-- Settles O22: a flag writer's change ends with a flag in VF; any other change keeps a VF that is no destination. -/
theorem vFIsAFlagOrAnOrdinaryDestination : Obligations.VFIsAFlagOrAnOrdinaryDestination := by
  intro i s t h hr
  obtain ⟨hc, -⟩ := changes_of_running h hr
  refine ⟨fun hw => ?_, fun hw hd => hc.reg_eq hd (.inl hw)⟩
  obtain ⟨f, hf⟩ := hc.vF_eq_flagByte hw
  rw [hf]
  exact flagByte_cases f

/-- Settles O21: each kind of change writes the special state of its own instructions only; a fault keeps all of it. -/
theorem specialStateHasNoOtherWriter : Obligations.SpecialStateHasNoOtherWriter := by
  intro i s t h
  rcases exec_cases h with ⟨hc, -⟩ | ⟨now, f, rfl, -⟩
  · cases hc with
    | control | register | result | draw | load => simp
    | index _ _ hi => simp [hi]
    | memory _ _ hi => simp [hi]
    | delay | sound => simp
    | pop _ he => rw [State.pop_frame he]; simp
    | push _ v he => rw [State.push_frame he]; simp
  · simp

/-- Settles O18: from 0xFFE a change that leaves pc after the instruction, or skips, ends above 0xFFF. -/
theorem sequentialInstructionsFaultAtTheTop : Obligations.SequentialInstructionsFaultAtTheTop := by
  intro i s t _ hpc h hr
  obtain ⟨hc, hle⟩ := changes_of_running h hr
  rcases hc.pc_cases with hp | hp | hp | hp | hp | hp | ⟨hi, hp⟩
  · simp [hp, hpc] at hle
  · simp [hp, hpc] at hle
  · exact .inl hp
  · exact .inr (.inl hp)
  · exact .inr (.inr (.inl hp))
  · exact .inr (.inr (.inr (.inl hp)))
  · exact .inr (.inr (.inr (.inr ⟨hi, by simp [hp, hpc]⟩)))

end

section
/-! PROOFS. The invariant of every reachable state is kept by every step: by each change of an instruction, and by each fault,
whose record is legal (spec/10_state.md R24, R25, R28, R35; spec/60_exceptions.md R206). -/

open Sys2Proof Sys2Proof.Machine

namespace Sys2Proof

/-! ### The decoder gives well-formed instructions -/

theorem Word.fieldN_lt (op : Word) : op.fieldN < 16 := (op.extractLsb' 0 4).isLt

theorem decodeFamily8_wellFormed {op : Word} {i : Instr} (h : decodeFamily8 op = some i) : i.wellFormed = true := by
  unfold decodeFamily8 at h
  split at h <;> cases h <;> rfl

theorem decodeFamilyE_wellFormed {op : Word} {i : Instr} (h : decodeFamilyE op = some i) : i.wellFormed = true := by
  unfold decodeFamilyE at h
  split at h <;> cases h <;> rfl

theorem decodeFamilyF_wellFormed {op : Word} {i : Instr} (h : decodeFamilyF op = some i) : i.wellFormed = true := by
  unfold decodeFamilyF at h
  split at h <;> cases h <;> rfl

/-- Every operand that the decoder gives fits its field (R77). -/
theorem decodeWord_wellFormed {op : Word} {i : Instr} (h : decodeWord op = some i) : i.wellFormed = true := by
  unfold decodeWord at h
  split at h
  case h_9 => exact decodeFamily8_wellFormed h
  case h_14 => cases h; exact decide_eq_true op.fieldN_lt
  case h_15 => exact decodeFamilyE_wellFormed h
  case h_16 => exact decodeFamilyF_wellFormed h
  case h_1 | h_6 | h_10 => (repeat' split at h) <;> cases h <;> rfl
  all_goals cases h <;> rfl

end Sys2Proof

namespace Sys2Proof.Machine

/-! ### Every fault that is raised is legal -/

/-- What a raise must look like for its record to be legal (R206): an address exactly for MemoryOutOfBounds, above 0xFFF. -/
structure Raise.Legal (r : Raise) : Prop where
  address : r.addr ≠ none ↔ r.kind = .memoryOutOfBounds
  outOfRange : ∀ a, r.addr = some a → Config.lastAddr < a.toNat

theorem Raise.legal_of_addr {w : Word} (h : 0xFFF < w.toNat) :
    Raise.Legal { kind := .memoryOutOfBounds, addr := some w } where
  address := by simp
  outOfRange := by rintro _ ⟨⟩; exact h

theorem Raise.legal_outOfBounds {a : Nat} (h : 0xFFF < a) (hw : a < 0x10000) : (Raise.outOfBounds a).Legal :=
  Raise.legal_of_addr (by rw [BitVec.toNat_ofNat]; omega)

theorem Raise.legal_of_no_addr {k : FaultKind} (h : k ≠ .memoryOutOfBounds) : Raise.Legal { kind := k, addr := none } where
  address := by simp [h]
  outOfRange := by simp

theorem legal_of_setIChecked {t : State} {a : Nat} {r : Raise} (ha : a < 0x10000) (h : t.setIChecked a = .error r) :
    r.Legal := by
  rcases t.setIChecked_cases a with ⟨_, he⟩ | ⟨hgt, he⟩ <;> rw [he] at h <;> cases h
  exact Raise.legal_outOfBounds hgt ha

theorem legal_of_readAtI {t : State} {n : Nat} {r : Raise} (hI : t.I.toNat ≤ 0xFFF) (hn : n ≤ 16)
    (h : readAtI t n = .error r) : r.Legal := by
  rcases readAtI_cases t n with ⟨_, he⟩ | ⟨_, hgt, he⟩ <;> rw [he] at h <;> cases h
  exact Raise.legal_outOfBounds hgt (by omega)

theorem legal_of_writeAtI {t : State} {vs : List Byte} {r : Raise} (hI : t.I.toNat ≤ 0xFFF) (hv : 0 < vs.length)
    (hn : vs.length ≤ 16) (h : writeAtI t vs = .error r) : r.Legal := by
  rcases writeAtI_cases t hv with ⟨_, he⟩ | ⟨hgt, he⟩ <;> rw [he] at h <;> cases h
  exact Raise.legal_outOfBounds hgt (by omega)

/-- From an `I` inside memory no address that an effect computes leaves 16 bits, so the record of its fault is legal. -/
theorem legal_of_effectOf {i : Instr} {t : State} {r : Raise} (hI : t.I.toNat ≤ 0xFFF) (hi : i.wellFormed = true)
    (h : effectOf i t = .error r) : r.Legal := by
  cases i with
  | ret =>
    rcases t.pop_cases with ⟨_, he⟩ | ⟨_, he⟩ <;> simp only [effectOf, he] at h <;> cases h
    exact Raise.legal_of_no_addr (by decide)
  | call nnn =>
    rcases t.push_cases with ⟨_, he⟩ | ⟨_, he⟩ <;> simp only [effectOf, he] at h <;> cases h
    exact Raise.legal_of_no_addr (by decide)
  | addIVx x =>
    have := (t.reg x).isLt
    exact legal_of_setIChecked (by omega) h
  | ldFVx x =>
    have := (t.reg x).isLt
    have := Config.fontBase.isLt
    exact legal_of_setIChecked (by simp only [fontAddr, Config.digitBytes]; omega) h
  | ldBVx x => exact legal_of_writeAtI hI (by simp) (by simp) h
  | ldMemVx x => exact legal_of_writeAtI hI (by simp) (by simp) h
  | ldVxMem x =>
    cases he : readAtI t (x.val + 1) with
    | ok bs => simp only [effectOf, he] at h; cases h
    | error r' => simp only [effectOf, he] at h; cases h; exact legal_of_readAtI hI (by omega) he
  | drw x y n =>
    have hn : n < 16 := of_decide_eq_true hi
    cases he : readAtI t n with
    | ok bs => simp only [effectOf, he] at h; cases h
    | error r' => simp only [effectOf, he] at h; cases h; exact legal_of_readAtI hI (by omega) he
  | _ => cases h

/-! ### The invariant -/

/-- A fault keeps the invariant: but for its record the state is as before. -/
theorem State.Inv.takeFault {s : State} (h : s.Inv) (now : State) {op : Option Word} {r : Raise} (hr : r.Legal)
    (hop : op = none → r.kind = .memoryOutOfBounds) : (s.takeFault now op r).Inv where
  memory := h.memory
  pc := h.pc
  index := h.index
  slots := h.slots
  pending := h.pending
  record := by rintro _ ⟨⟩; exact ⟨hop, hr.address, hr.outOfRange, h.pc⟩

theorem State.Inv.betweenSteps {s : State} (h : s.Inv) : s.betweenSteps.Inv where
  memory := h.memory
  pc := h.pc
  index := h.index
  slots := h.slots
  pending := h.pending
  record := h.record

/-- A pop keeps the invariant where it leads into memory. -/
theorem State.Inv.pop {s u : State} (h : s.Inv) (hu : s.advance.pop = .ok u) (hpc : u.pc.toNat ≤ 0xFFF) : u.Inv := by
  rcases s.advance.pop_cases with ⟨_, he⟩ | ⟨_, he⟩ <;> rw [he] at hu <;> cases hu
  exact {
    memory := h.memory
    pc := hpc
    index := h.index
    slots := h.slots
    pending := fun j hj => h.pending j (Nat.lt_of_lt_of_le hj (Nat.sub_le _ _))
    record := h.record }

/-- A push from a fetchable pc keeps the invariant: the return address is 2 to 0x1000 (R29). -/
theorem State.Inv.push {s u : State} (h : s.Inv) (hfetch : s.pc.toNat ≤ 0xFFE) (hu : s.advance.push = .ok u) {w : Word}
    (hpc : w.toNat ≤ 0xFFF) : (u.setPc w).Inv := by
  have hnext : (s.pc + 2).toNat = s.pc.toNat + 2 := by rw [BitVec.toNat_add]; simp; omega
  rcases s.advance.push_cases with ⟨_, he⟩ | ⟨_, he⟩ <;> rw [he] at hu <;> cases hu
  refine {
    memory := h.memory
    pc := hpc
    index := h.index
    slots := fun j => ?_
    pending := fun j hj => ?_
    record := h.record }
  · have := h.slots j
    simp only [State.setPc_stack, State.advance_pc, Vector.getElem_set]
    split
    · omega
    · exact this
  · have hj : j.val < s.sp.val + 1 := hj
    simp only [State.setPc_stack, State.advance_pc, State.advance_sp, Vector.getElem_set]
    split
    · omega
    · exact h.pending j (by omega)

/-- Every change of an instruction that was fetched keeps the invariant where it ends with pc in memory. -/
theorem Changes.inv {i : Instr} {s u : State} (h : Changes s.advance i u) (hs : s.Inv) (hfetch : s.pc.toNat ≤ 0xFFE)
    (hpc : u.pc.toNat ≤ 0xFFF) : u.Inv := by
  cases h with
  | pop _ he => exact hs.pop he hpc
  | push _ _ he => exact hs.push hfetch he hpc
  | index _ _ _ hw => exact ⟨hs.memory, hpc, hw, hs.slots, hs.pending, hs.record⟩
  | memory _ vs _ hin => exact ⟨Memory.wf_setBytes hs.memory hin, hpc, hs.index, hs.slots, hs.pending, hs.record⟩
  | control | register | result | draw | load | delay | sound =>
    exact ⟨hs.memory, hpc, hs.index, hs.slots, hs.pending, hs.record⟩

/-- Executing a well-formed instruction that was fetched keeps the invariant. -/
theorem exec_inv {i : Instr} {s u : State} (hs : s.Inv) (hfetch : s.pc.toNat ≤ 0xFFE) (hi : i.wellFormed = true)
    (h : exec i s = .next u) : u.Inv := by
  rcases exec_cases h with ⟨hc, hpc⟩ | ⟨now, r, rfl, he | ⟨hpc, rfl⟩⟩
  · exact hc.inv hs hfetch hpc
  · exact hs.takeFault now (legal_of_effectOf (t := s.advance) hs.index hi he) (by simp)
  · exact hs.takeFault now (Raise.legal_of_addr hpc) (by simp)

/-- The step port keeps the invariant: a fetch fault, an invalid opcode, or the decoded instruction executed. -/
theorem stepPort_inv {s u : State} (hs : s.Inv) (h : stepPort s = .next u) : u.Inv := by
  have hpc : s.pc.toNat ≤ 0xFFF := hs.pc
  obtain ⟨-, ⟨r, hf, rfl⟩ | ⟨op, -, -, rfl⟩ | ⟨op, i, hf, hd, hx⟩⟩ := stepPort_cases h
  · rcases fetch16_cases s s.pc.toNat with ⟨_, he⟩ | ⟨_, b, hb, _, hle, he⟩ <;> rw [he] at hf <;> cases hf
    exact hs.takeFault s (Raise.legal_outOfBounds hb (by omega)) fun _ => rfl
  · exact hs.takeFault s (Raise.legal_of_no_addr (by decide)) (by simp)
  · rcases fetch16_cases s s.pc.toNat with ⟨hle, _⟩ | ⟨_, b, _, _, _, he⟩
    · exact exec_inv hs hle (decodeWord_wellFormed hd) hx
    · rw [he] at hf; cases hf

end Sys2Proof.Machine

/-- Settles O13: a step is the step port after ticks, which the invariant does not speak of. -/
theorem stepKeepsTheInvariant : Obligations.StepKeepsTheInvariant := by
  intro s t hs h
  exact stepPort_inv hs.betweenSteps ((step_eq s).symm.trans h)

end

section
/-! PROOFS. A register that an instruction does not read has no influence: each shared operation, each effect and so each
instruction gives the same state but for that register (spec/10_state.md R23). -/

open Sys2Proof Sys2Proof.Machine

namespace Sys2Proof.Machine

/-! ### States that differ in one register -/

/-- Two states that agree in every register but `r` and in every other field differ by a write to `r`. -/
theorem exists_eq_setReg {u v : State} {r : Reg} (hV : v = { u with V := v.V }) (h : ∀ k : Reg, k ≠ r → v.reg k = u.reg k) :
    ∃ c, v = u.setReg r c := by
  refine ⟨v.reg r, hV.trans (congrArg (fun V => { u with V := V }) (Vector.ext fun k hk => ?_))⟩
  rw [Vector.getElem_set]
  split
  next hkr => simp only [State.reg, hkr]
  next hkr => exact h ⟨k, hk⟩ fun e => hkr (congrArg Fin.val e).symm

@[simp] theorem State.setReg_setReg_same (s : State) (r : Reg) (b c : Byte) : (s.setReg r b).setReg r c = s.setReg r c := by
  simp [State.setReg]

section
variable (t : State) {r : Reg} (b : Byte)

/-- A write to any register hides or keeps the difference. -/
theorem State.exists_setReg_comm (x : Reg) (v : Byte) : ∃ c, (t.setReg r b).setReg x v = (t.setReg x v).setReg r c := by
  refine exists_eq_setReg rfl fun k hk => ?_
  by_cases hx : k = x
  · subst hx; simp
  · rw [State.reg_setReg_ne _ _ hx, State.reg_setReg_ne _ _ hk, State.reg_setReg_ne _ _ hx]

theorem State.exists_setResult_comm (x : Reg) (v : Byte) (f : Bool) :
    ∃ c, (t.setReg r b).setResult x v f = (t.setResult x v f).setReg r c := by
  obtain ⟨c, hc⟩ := t.exists_setReg_comm b x v
  unfold State.setResult
  rw [hc]
  exact (t.setReg x v).exists_setReg_comm c .vF _

theorem State.exists_setRegs_comm (bs : List Byte) : ∃ c, (t.setReg r b).setRegs bs = (t.setRegs bs).setReg r c := by
  refine exists_eq_setReg rfl fun k hk => ?_
  have hkr : r.val ≠ k.val := fun e => hk (Fin.ext e.symm)
  simp only [State.reg, State.setRegs_V, loadRegs_getElem, State.setReg_V, Vector.getElem_set_ne _ _ hkr]

/-! ### The shared operations do not read a register -/

theorem State.pop_setReg : (t.setReg r b).pop = t.pop.map (State.setReg · r b) := by
  rcases t.pop_cases with ⟨h, he⟩ | ⟨h, he⟩
  · rw [he, State.pop_eq_ok (s := t.setReg r b) h]; rfl
  · rw [he, State.pop_eq_error (s := t.setReg r b) h]; rfl

theorem State.push_setReg : (t.setReg r b).push = t.push.map (State.setReg · r b) := by
  rcases t.push_cases with ⟨h, he⟩ | ⟨h, he⟩
  · rw [he, State.push_eq_ok (s := t.setReg r b) h]; rfl
  · rw [he, State.push_eq_error (s := t.setReg r b) (by simp [h])]; rfl

theorem State.setIChecked_setReg (a : Nat) : (t.setReg r b).setIChecked a = (t.setIChecked a).map (State.setReg · r b) := by
  unfold State.setIChecked
  split <;> rfl

theorem readAtI_setReg (n : Nat) : readAtI (t.setReg r b) n = readAtI t n := by
  rcases readAtI_cases t n with ⟨h, he⟩ | ⟨hn, h, he⟩
  · rw [he, readAtI_eq_ok (s := t.setReg r b) h]; rfl
  · rw [he, readAtI_eq_error (s := t.setReg r b) hn h]; rfl

theorem writeAtI_setReg {vs : List Byte} (hv : 0 < vs.length) :
    writeAtI (t.setReg r b) vs = (writeAtI t vs).map (State.setReg · r b) := by
  rcases writeAtI_cases t hv with ⟨h, he⟩ | ⟨h, he⟩
  · rw [he, writeAtI_eq_ok (s := t.setReg r b) h]; rfl
  · rw [he, writeAtI_eq_error (s := t.setReg r b) hv h]; rfl

/-! ### The operands that an instruction reads -/

/-- The operand `x` of an instruction whose one source is `x`. -/
theorem State.reg_setReg_unread {x : Reg} (h : (r == x) = false) : (t.setReg r b).reg x = t.reg x :=
  t.reg_setReg_ne b fun e => beq_eq_false_iff_ne.mp h e.symm

/-- The operands of an instruction whose sources are `x` and `y`. -/
theorem State.regs_setReg_unread {x y : Reg} (h : (r == x || r == y) = false) :
    (t.setReg r b).reg x = t.reg x ∧ (t.setReg r b).reg y = t.reg y :=
  have ⟨hx, hy⟩ := Bool.or_eq_false_iff.mp h
  ⟨t.reg_setReg_unread b hx, t.reg_setReg_unread b hy⟩

theorem State.regsTo_setReg_unread {x : Reg} (h : decide (r.val ≤ x.val) = false) : (t.setReg r b).regsTo x = t.regsTo x := by
  have hr : ¬ r.val ≤ x.val := of_decide_eq_false h
  refine List.ext_getElem (by simp) fun k hk _ => ?_
  rw [State.length_regsTo] at hk
  simp only [State.getElem_regsTo, State.setReg_V]
  exact Vector.getElem_set_ne r.isLt (by omega) (by omega)

end

/-! ### The instructions -/

/-- The effect of an instruction that does not read `r` is the same whatever `r` holds, but for `r`. -/
theorem effectOf_setReg_unread {i : Instr} {r : Reg} (h : i.source r = false) (t : State) (b : Byte) :
    ∃ c, effectOf i (t.setReg r b) = (effectOf i t).map (State.setReg · r c) := by
  cases i with
  | cls | jp | ldI => exact ⟨b, rfl⟩
  | ret => exact ⟨b, t.pop_setReg b⟩
  | call nnn =>
    refine ⟨b, ?_⟩
    simp only [effectOf, t.push_setReg b]
    cases t.push <;> rfl
  | jpV0 | seImm | sneImm | skp | sknp | ldDtVx | ldStVx =>
    exact ⟨b, by simp only [effectOf, t.reg_setReg_unread b h]; rfl⟩
  | seReg | sneReg =>
    obtain ⟨hx, hy⟩ := t.regs_setReg_unread b h
    exact ⟨b, by simp only [effectOf, hx, hy]; rfl⟩
  | ldImm x | ldVxDt x => exact (t.exists_setReg_comm b x _).imp fun _ => congrArg Except.ok
  | rnd x => exact (t.requestRandom.exists_setReg_comm b x _).imp fun _ => congrArg Except.ok
  | addImm x | ldReg x =>
    simp only [effectOf, t.reg_setReg_unread b h]
    exact (t.exists_setReg_comm b x _).imp fun _ => congrArg Except.ok
  | or x | and x | xor x =>
    obtain ⟨hx, hy⟩ := t.regs_setReg_unread b h
    simp only [effectOf, hx, hy]
    exact (t.exists_setReg_comm b x _).imp fun _ => congrArg Except.ok
  | shr x | shl x =>
    simp only [effectOf, t.reg_setReg_unread b h]
    exact (t.exists_setResult_comm b x _ _).imp fun _ => congrArg Except.ok
  | addReg x | sub x | subn x =>
    obtain ⟨hx, hy⟩ := t.regs_setReg_unread b h
    simp only [effectOf, hx, hy]
    exact (t.exists_setResult_comm b x _ _).imp fun _ => congrArg Except.ok
  | ldVxK x =>
    have hp : (t.setReg r b).pollAnswer = t.pollAnswer := rfl
    simp only [effectOf, hp]
    cases t.pollAnswer with
    | none => exact ⟨b, rfl⟩
    | some k => exact (t.requestPoll.exists_setReg_comm b x _).imp fun _ => congrArg Except.ok
  | drw x y n =>
    obtain ⟨hx, hy⟩ := t.regs_setReg_unread b h
    simp only [effectOf, hx, hy, readAtI_setReg]
    cases readAtI t n with
    | error e => exact ⟨b, rfl⟩
    | ok sprite =>
      exact ((t.requestDraw _ _ sprite).exists_setReg_comm b .vF _).imp fun _ => congrArg Except.ok
  | ldVxMem x =>
    simp only [effectOf, readAtI_setReg]
    cases readAtI t (x.val + 1) with
    | error e => exact ⟨b, rfl⟩
    | ok bs => exact (t.exists_setRegs_comm b bs).imp fun _ => congrArg Except.ok
  | addIVx | ldFVx => exact ⟨b, by simp only [effectOf, t.reg_setReg_unread b h]; exact t.setIChecked_setReg b _⟩
  | ldBVx => exact ⟨b, by simp only [effectOf, t.reg_setReg_unread b h]; exact writeAtI_setReg t b (by simp)⟩
  | ldMemVx => exact ⟨b, by simp only [effectOf, t.regsTo_setReg_unread b h]; exact writeAtI_setReg t b (by simp)⟩

/-- The final pc check does not read a register. -/
theorem State.exists_finish_setReg (s u : State) (r : Reg) (b c : Byte) (op : Word) :
    ∃ d, (s.setReg r b).finish (u.setReg r c) op = (s.finish u op).setReg r d := by
  by_cases hp : u.pc.toNat ≤ 0xFFF
  · rw [State.finish_of_le op hp, State.finish_of_le (t := u.setReg r c) op hp]
    exact ⟨c, rfl⟩
  · have hp : 0xFFF < u.pc.toNat := by omega
    rw [State.finish_of_gt op hp, State.finish_of_gt (t := u.setReg r c) op hp]
    exact ⟨b, rfl⟩

/-- An instruction that does not read `r` answers the same state whatever `r` holds, but for `r`. -/
theorem exec_setReg_unread {i : Instr} {r : Reg} (h : i.source r = false) (s : State) (b : Byte) :
    ∃ u d, exec i s = .next u ∧ exec i (s.setReg r b) = .next (u.setReg r d) := by
  obtain ⟨c, hc⟩ : ∃ c, effectOf i (s.setReg r b).advance = (effectOf i s.advance).map (State.setReg · r c) :=
    effectOf_setReg_unread h s.advance b
  simp only [exec_eq_runEffect]
  cases he : effectOf i s.advance with
  | error e =>
    rw [he] at hc
    rw [runEffect_of_error he, runEffect_of_error hc]
    exact ⟨_, b, rfl, rfl⟩
  | ok u =>
    rw [he] at hc
    obtain ⟨d, hd⟩ := s.exists_finish_setReg u r b c (encode i)
    rw [runEffect_of_ok he, runEffect_of_ok hc, hd]
    exact ⟨_, d, rfl, rfl⟩

end Sys2Proof.Machine

/-- Settles O19: the two runs end in states that differ by a write to the unread register. -/
theorem unreadRegistersHaveNoInfluence : Obligations.UnreadRegistersHaveNoInfluence := by
  intro i s t t' r b hsrc ht ht'
  obtain ⟨u, d, hu, hu'⟩ := exec_setReg_unread hsrc s b
  obtain rfl : u = t := by rw [hu] at ht; injection ht
  obtain rfl : u.setReg r d = t' := by rw [hu'] at ht'; injection ht'
  exact u.setReg_setReg_same r d 0

end

section
/-! PROOFS. The fetch at each kind of address, and the bytes that a register dump stores: the fetch reads what was stored
(spec/20_memory.md R53, R64). -/

open Sys2Proof Sys2Proof.Machine

namespace Sys2Proof.Machine

/-! ### The fetch at each kind of address -/

/-- The fetch of two bytes inside memory (R53). -/
theorem fetch16_of_le (s : State) {a : Nat} (h : a ≤ 0xFFE) :
    fetch16 s a = .ok (wordOfBytes (s.mem.get a) (s.mem.get (a + 1))) := by
  rcases fetch16_cases s a with ⟨-, he⟩ | ⟨ha, -⟩
  · exact he
  · omega

/-- The fetch whose second byte lies outside memory names that byte's address (R53). -/
theorem fetch16_at_last (s : State) : fetch16 s 0xFFF = .error (.outOfBounds 0x1000) := rfl

/-- The fetch outside memory names its own address (R53, notes/assumptions/7). -/
theorem fetch16_of_gt (s : State) {a : Nat} (h : 0xFFF < a) : fetch16 s a = .error (.outOfBounds a) := if_pos h

/-! ### A register dump inside memory -/

/-- V0 to Vx fit where the dump's last address is inside memory (R58). -/
theorem State.regsTo_fits (s : State) {a : Nat} {x : Reg} (h : a + x.val ≤ 0xFFF) :
    a + (s.regsTo x).length ≤ Config.memSize := by
  rw [State.length_regsTo, Config.memSize]; omega

/-- A register dump inside memory stores V0 to Vx at I and changes nothing else but pc (R174). -/
theorem ldMemVx_lands {s : State} {x : Reg} (h : s.I.toNat + x.val ≤ 0xFFF) :
    Lands (.ldMemVx x) s { s with mem := s.mem.setBytes s.I.toNat (s.regsTo x), pc := s.pc + 2 } :=
  lands_of_ok (exec_eq_runEffect _ s) (writeAtI_eq_ok (s := s.advance) (s.regsTo_fits h))

/-- A dumped register is read back at its own address (R174). -/
theorem Memory.get_setBytes_regsTo {m : Memory} (hm : m.wf = true) (s : State) {a : Nat} {x r : Reg}
    (ha : a + x.val ≤ 0xFFF) (hr : r ≤ x) : (m.setBytes a (s.regsTo x)).get (a + r.val) = s.reg r := by
  have hrx : r.val ≤ x.val := hr
  have hlisted : a ≤ a + r.val ∧ a + r.val - a < (s.regsTo x).length := by
    rw [State.length_regsTo]; omega
  rw [Memory.get_setBytes hm (s.regsTo_fits ha), dif_pos hlisted, State.getElem_regsTo]
  simp only [Nat.add_sub_cancel_left, State.reg]

end Sys2Proof.Machine

/-- Settles O8: the value of a fetch inside memory is that of its two bytes, the first in the high half. -/
theorem fetchIsBigEndianAndBounded : Obligations.FetchIsBigEndianAndBounded := by
  refine fun s a => ⟨fun h => ⟨_, fetch16_of_le s h, ?_⟩, ?_, fetch16_of_gt s⟩
  · rw [toNat_wordOfBytes, Nat.mul_comm]
  · rintro rfl
    exact fetch16_at_last s

/-- Settles O49: the dump leaves Vj and Vj+1 at I + j and I + j + 1, where the fetch reads its two bytes. -/
theorem storedBytesAreFetched : Obligations.StoredBytesAreFetched := by
  intro s x j k hm hx hpc hjk hk
  have hnext : (s.pc + 2).toNat ≤ 0xFFF := by
    rw [BitVec.toNat_add, show (2 : Word).toNat = 2 from rfl]; omega
  have hkx : k.val ≤ x.val := hk
  have hj : j ≤ x := by show j.val ≤ x.val; omega
  refine ⟨_, (ldMemVx_lands hx).1 hnext, ?_⟩
  rw [fetch16_of_le _ (by omega), Nat.add_assoc, hjk]
  simp only [Memory.get_setBytes_regsTo hm s hx hj, Memory.get_setBytes_regsTo hm s hx hk]

end

section
/-! PROOFS. Decode and encode are inverse, the mask and match words select the operation, and the decoder refuses exactly the
illegal opcodes (spec/30_encoding.md R70 to R84, R90). -/

open Sys2Proof Sys2Proof.Machine

namespace Sys2Proof

/-! ### From the instruction to its opcode and back -/

/-- An encoded well-formed instruction decodes to itself: each format's fields are read back (R76). -/
theorem decodeWord_encode {i : Instr} (h : i.wellFormed = true) : decodeWord (encode i) = some i := by
  cases i with
  | cls | ret => rfl
  | jp | call | ldI | jpV0 => simp [encode, decodeWord, fields_formatA]
  | seImm | sneImm | ldImm | addImm | rnd => simp [encode, decodeWord, fields_formatXKK]
  | seReg | sneReg => simp [encode, decodeWord, fields_formatXYN]
  | ldReg | or | and | xor | addReg | sub | shr | subn | shl =>
    simp [encode, decodeWord, decodeFamily8, fields_formatXYN]
  | drw x y n =>
    have hn : n % 16 = n := Nat.mod_eq_of_lt (of_decide_eq_true h)
    simp [encode, decodeWord, fields_formatXYN, hn]
  | skp | sknp => simp [encode, decodeWord, decodeFamilyE, fields_formatXKK]
  | ldVxDt | ldVxK | ldDtVx | ldStVx | addIVx | ldFVx | ldBVx | ldMemVx | ldVxMem =>
    simp [encode, decodeWord, decodeFamilyF, fields_formatXKK]

/-- The decoder over the two bytes of an opcode that decodes (R54). -/
theorem decode_hi_lo {op : Word} {i : Instr} (h : decodeWord op = some i) (rest : List Byte) :
    decode (op.hiByte :: op.loByte :: rest) = .ok (i, rest) := by
  simp only [decode, wordOfBytes_hi_lo, h]

/-! ### From an opcode to its fields and back -/

section
variable {op : Word} {f : BitVec 4} (hf : op.family = f.toNat)
include hf

/-- An opcode is format A of its own fields. -/
theorem formatA_fields : formatA f op.fieldNNN = op := by
  rw [Word.family_eq] at hf
  apply BitVec.eq_of_toNat_eq
  rw [toNat_formatA, Word.toNat_fieldNNN]; omega

/-- An opcode is format XKK of its own fields, and format X where `kk` is its selector. -/
theorem formatXKK_fields {kk : Byte} (hk : op.fieldKK.toNat = kk.toNat) : formatXKK f op.fieldX kk = op := by
  rw [Word.family_eq] at hf
  rw [Word.toNat_fieldKK] at hk
  apply BitVec.eq_of_toNat_eq
  rw [toNat_formatXKK, Word.val_fieldX]; omega

/-- An opcode is format XYN of its own fields, and format XY0 or XYZ where `n` is its last nibble. -/
theorem formatXYN_fields {n : BitVec 4} (hn : op.fieldN = n.toNat) : formatXYN f op.fieldX op.fieldY n = op := by
  rw [Word.family_eq] at hf
  rw [Word.fieldN_eq] at hn
  apply BitVec.eq_of_toNat_eq
  rw [toNat_formatXYN, Word.val_fieldX, Word.val_fieldY]; omega

end

/-- What the 8 family decodes to encodes to the opcode (R82). -/
theorem encode_of_decodeFamily8 {op : Word} {i : Instr} (hf : op.family = 8) (h : decodeFamily8 op = some i) :
    encode i = op := by
  unfold decodeFamily8 at h
  split at h <;> cases h <;> exact formatXYN_fields hf ‹_›

/-- What the E family decodes to encodes to the opcode (R83). -/
theorem encode_of_decodeFamilyE {op : Word} {i : Instr} (hf : op.family = 14) (h : decodeFamilyE op = some i) :
    encode i = op := by
  unfold decodeFamilyE at h
  split at h <;> cases h <;> exact formatXKK_fields hf ‹_›

/-- What the F family decodes to encodes to the opcode (R84). -/
theorem encode_of_decodeFamilyF {op : Word} {i : Instr} (hf : op.family = 15) (h : decodeFamilyF op = some i) :
    encode i = op := by
  unfold decodeFamilyF at h
  split at h <;> cases h <;> exact formatXKK_fields hf ‹_›

/-- What an opcode decodes to encodes to the opcode: the fields that the decoder reads are all of its bits (R79). -/
theorem encode_of_decodeWord {op : Word} {i : Instr} (h : decodeWord op = some i) : encode i = op := by
  unfold decodeWord at h
  split at h
  case h_1 =>
    split at h
    · cases h; exact Eq.symm ‹_›
    · split at h <;> cases h; exact Eq.symm ‹_›
  case h_2 hf | h_3 hf | h_11 hf | h_12 hf => cases h; exact formatA_fields hf
  case h_4 hf | h_5 hf | h_7 hf | h_8 hf | h_13 hf => cases h; exact formatXKK_fields hf rfl
  case h_6 hf | h_10 hf => split at h <;> cases h; exact formatXYN_fields hf ‹_›
  case h_9 hf => exact encode_of_decodeFamily8 hf h
  case h_14 hf =>
    cases h
    exact formatXYN_fields hf (Nat.mod_eq_of_lt op.fieldN_lt).symm
  case h_15 hf => exact encode_of_decodeFamilyE hf h
  case h_16 hf => exact encode_of_decodeFamilyF hf h
  case h_17 => cases h

/-! ### The selecting bits of an opcode -/

section
variable {op op' mask : Word} (h : op &&& mask = op' &&& mask)
include h

/-- The leading nibble is one of the bits under a mask that covers it. -/
theorem Word.family_of_and (hm : mask.extractLsb' 12 4 = 15#4) : op.family = op'.family := by
  have hbits := congrArg (BitVec.extractLsb' 12 4) h
  rw [BitVec.extractLsb'_and, BitVec.extractLsb'_and, hm, and_fifteen, and_fifteen] at hbits
  exact congrArg BitVec.toNat hbits

/-- The last nibble is one of the bits under a mask that covers it. -/
theorem Word.fieldN_of_and (hm : mask.extractLsb' 0 4 = 15#4) : op.fieldN = op'.fieldN := by
  have hbits := congrArg (BitVec.extractLsb' 0 4) h
  rw [BitVec.extractLsb'_and, BitVec.extractLsb'_and, hm, and_fifteen, and_fifteen] at hbits
  exact congrArg BitVec.toNat hbits

/-- The low byte is the bits under a mask that covers it. -/
theorem Word.fieldKK_of_and (hm : mask.extractLsb' 0 8 = 255#8) : op.fieldKK = op'.fieldKK := by
  have hbits := congrArg (BitVec.extractLsb' 0 8) h
  rwa [BitVec.extractLsb'_and, BitVec.extractLsb'_and, hm, and_255, and_255] at hbits

end

/-- Every instruction's encoding has its match word under its mask (the Encoding line of its rule). -/
theorem encode_and_opcodeMask (i : Instr) : encode i &&& i.opcodeMask = i.opcodeMatch := by
  cases i with
  | cls | ret => rfl
  | jp | call | ldI | jpV0 => exact formatA_and_family _ _
  | seImm | sneImm | ldImm | addImm | rnd => exact formatXKK_and_family _ _ _
  | drw => exact formatXYN_and_family _ _ _ _
  | seReg | sneReg | ldReg | or | and | xor | addReg | sub | shr | subn | shl => exact formatXYN_and_selector _ _ _ _
  | skp | sknp | ldVxDt | ldVxK | ldDtVx | ldStVx | addIVx | ldFVx | ldBVx | ldMemVx | ldVxMem =>
    exact formatXKK_and_selector _ _ _

/-- Every instruction's mask covers the leading nibble (R79). -/
theorem Instr.opcodeMask_family (i : Instr) : i.opcodeMask.extractLsb' 12 4 = 15#4 := by
  cases i <;> simp [Instr.opcodeMask]

/-- An opcode whose selecting bits are an instruction's decodes to an instruction with the same selecting bits: the fields
that the decoder branches on lie under the mask, so they are those of the instruction's encoding. -/
theorem exists_decodeWord_of_and {op : Word} {i : Instr} (h : op &&& i.opcodeMask = i.opcodeMatch) :
    ∃ j, decodeWord op = some j ∧ j.opcodeMask = i.opcodeMask ∧ j.opcodeMatch = i.opcodeMatch := by
  have he : op &&& i.opcodeMask = encode i &&& i.opcodeMask := h.trans (encode_and_opcodeMask i).symm
  have hf := Word.family_of_and he i.opcodeMask_family
  cases i with
  | cls | ret =>
    obtain rfl := BitVec.and_allOnes.symm.trans h
    exact ⟨_, rfl, rfl, rfl⟩
  | jp | call | ldI | jpV0 =>
    simp [decodeWord, hf, encode, fields_formatA, Instr.opcodeMask, Instr.opcodeMatch]
  | seImm | sneImm | ldImm | addImm | rnd =>
    simp [decodeWord, hf, encode, fields_formatXKK, Instr.opcodeMask, Instr.opcodeMatch]
  | drw =>
    simp [decodeWord, hf, encode, fields_formatXYN, Instr.opcodeMask, Instr.opcodeMatch]
  | seReg | sneReg | ldReg | or | and | xor | addReg | sub | shr | subn | shl =>
    have hn := Word.fieldN_of_and (mask := 0xF00F) he (by decide)
    simp [decodeWord, decodeFamily8, hf, hn, encode, fields_formatXYN, Instr.opcodeMask, Instr.opcodeMatch]
  | skp | sknp | ldVxDt | ldVxK | ldDtVx | ldStVx | addIVx | ldFVx | ldBVx | ldMemVx | ldVxMem =>
    have hk := Word.fieldKK_of_and (mask := 0xF0FF) he (by decide)
    simp [decodeWord, decodeFamilyE, decodeFamilyF, hf, hk, encode, fields_formatXKK, Instr.opcodeMask,
      Instr.opcodeMatch]

/-! ### The legal opcodes -/

/-- The decoder's selectors of the 8 family are R82's. -/
theorem isSome_decodeFamily8 (op : Word) : (decodeFamily8 op).isSome = legalFamily8 op.toNat := by
  rw [legalFamily8, ← Word.fieldN_eq]
  unfold decodeFamily8
  split <;> simp_all

/-- The decoder's selectors of the E family are R83's. -/
theorem isSome_decodeFamilyE (op : Word) : (decodeFamilyE op).isSome = legalFamilyE op.toNat := by
  rw [legalFamilyE, ← Word.toNat_fieldKK]
  unfold decodeFamilyE
  split <;> simp_all

/-- The decoder's selectors of the F family are R84's. -/
theorem isSome_decodeFamilyF (op : Word) : (decodeFamilyF op).isSome = legalFamilyF op.toNat := by
  rw [legalFamilyF, ← Word.toNat_fieldKK]
  unfold decodeFamilyF
  split <;> simp_all

/-- The 0 family is refused but for R80's two values. -/
theorem legalFamily0_of_ne {op : Word} (hcls : op ≠ 0x00E0) (hret : op ≠ 0x00EE) : legalFamily0 op.toNat = false := by
  have h1 : op.toNat ≠ 0x00E0 := fun e => hcls (BitVec.eq_of_toNat_eq e)
  have h2 : op.toNat ≠ 0x00EE := fun e => hret (BitVec.eq_of_toNat_eq e)
  simp [legalFamily0, h1, h2]

/-- The decoder answers an instruction exactly for the opcodes that are not in R90's list. -/
theorem isSome_decodeWord (op : Word) : (decodeWord op).isSome = legalOpcode op := by
  have hfam := op.family_eq
  unfold decodeWord
  split
  case h_1 hf =>
    split
    next hop => subst hop; rfl
    next hcls =>
      split
      next hop => subst hop; rfl
      next hret => simp only [legalOpcode, ← hfam, hf, legalFamily0_of_ne hcls hret, Option.isSome_none]
  case h_6 hf | h_10 hf =>
    simp only [legalOpcode, ← hfam, hf, legalFamily5And9, ← op.fieldN_eq]
    split
    next hn => rw [hn]; rfl
    next hn => rw [beq_false_of_ne hn]; rfl
  case h_9 hf => simp only [isSome_decodeFamily8, legalOpcode, ← hfam, hf]
  case h_15 hf => simp only [isSome_decodeFamilyE, legalOpcode, ← hfam, hf]
  case h_16 hf => simp only [isSome_decodeFamilyF, legalOpcode, ← hfam, hf]
  case h_17 =>
    have hlt : op.family < 16 := (op.extractLsb' 12 4).isLt
    interval_cases op.family <;> contradiction
  case h_2 hf | h_3 hf | h_4 hf | h_5 hf | h_7 hf | h_8 hf | h_11 hf | h_12 hf | h_13 hf | h_14 hf =>
    simp only [legalOpcode, ← hfam, hf, Option.isSome_some]

end Sys2Proof

namespace Sys2Proof.Machine

/-! ### The step -/

/-- The step port where the fetched opcode is illegal (R90, R201). -/
theorem stepPort_of_illegal {s : State} {op : Word} (hr : s.running) (hf : fetch16 s s.pc.toNat = .ok op)
    (hd : decodeWord op = none) :
    stepPort s = .next (s.takeFault s (some op) { kind := .invalidOpcode, addr := none }) := by
  simp only [stepPort, hr, hf, hd]

@[simp] theorem timerAfter_zero (t : Byte) : timerAfter 0 t = t :=
  BitVec.eq_of_toNat_eq (toNat_timerAfter 0 t)

/-- One decrement more (R211). -/
theorem timerDown_timerAfter (n : Nat) (t : Byte) : timerDown (timerAfter n t) = timerAfter (n + 1) t := by
  apply BitVec.eq_of_toNat_eq
  rw [toNat_timerDown, toNat_timerAfter, toNat_timerAfter, Nat.sub_sub]

/-- Any number of ticks takes each timer down by that number, not below 0, and changes nothing else (R211, R238). -/
theorem State.iterate_tick (n : Nat) (s : State) :
    State.tick^[n] s = { s with DT := timerAfter n s.DT, ST := timerAfter n s.ST } := by
  induction n with
  | zero => simp
  | succ n ih => rw [Function.iterate_succ_apply', ih, State.tick, timerDown_timerAfter, timerDown_timerAfter]

end Sys2Proof.Machine

/-- Settles O2, from the round trip on the opcode itself. -/
theorem decodeOfEncodeIsTheInstruction : Obligations.DecodeOfEncodeIsTheInstruction :=
  fun _ rest h => decode_hi_lo (decodeWord_encode h) rest

/-- Settles O3: the fields that the decoder reads are bounded and are all the bits of the opcode. -/
theorem encodeOfDecodeIsTheOpcode : Obligations.EncodeOfDecodeIsTheOpcode :=
  fun _ _ h => ⟨decodeWord_wellFormed h, encode_of_decodeWord h⟩

/-- Settles O4: the decoder branches on bits under the mask only. -/
theorem maskAndMatchSelectTheOperation : Obligations.MaskAndMatchSelectTheOperation :=
  fun _ _ h => exists_decodeWord_of_and h

/-- Settles O5: the decoder's selectors are those of R90's list, and the step port takes the fault before it changes
anything. -/
theorem illegalOpcodesFaultAtDecode : Obligations.IllegalOpcodesFaultAtDecode := by
  have hiff (op : Word) : decodeWord op = none ↔ legalOpcode op = false := by
    rw [← isSome_decodeWord, Option.isSome_eq_false_iff, Option.isNone_iff_eq_none]
  exact ⟨hiff, fun s op hr hf hl => stepPort_of_illegal hr hf ((hiff op).2 hl)⟩

/-- Settles O7, from any number of ticks as one update of the timers (`State.iterate_tick`, by induction). -/
theorem stepIsTheStepPortAfterSomeTicks : Obligations.StepIsTheStepPortAfterSomeTicks := by
  refine fun s => ⟨step_eq s, ?_⟩
  rw [State.iterate_tick, State.betweenSteps]

/-- Settles O1: each opcode is a fixed word. -/
theorem specOpcodesDecode : Obligations.SpecOpcodesDecode := by
  unfold Obligations.SpecOpcodesDecode
  decide

/-- Settles O6: the ticks before the step leave pc, memory and the fault status alone. -/
theorem stepRunsTheDecodedInstruction : Obligations.StepRunsTheDecodedInstruction := by
  intro s i hr hpc hd
  have hfetch : fetch16 s.betweenSteps s.pc.toNat = .ok _ := fetch16_of_le _ hpc
  exact (step_eq s).trans (stepPort_of_decode hr hfetch hd)

end

section
/-! PROOFS. Control transfer: where CLS, RET, JP, CALL and JP_V0 land, and that a RET undoes a CALL
(spec/40_control_flow.md R100 to R107). -/

open Sys2Proof Sys2Proof.Machine

namespace Sys2Proof.Machine

/-! ### Addresses -/

/-- An address field as a word (R77). -/
theorem zextAddr_eq_ofNat (nnn : Addr12) : zextAddr nnn = BitVec.ofNat 16 nnn.toNat :=
  (BitVec.ofNat_toNat 16 nnn).symm

/-- The target of Bnnn is the sum taken in 16 bits (R104). -/
theorem zextAddr_add_zextByte (nnn : Addr12) (b : Byte) :
    zextAddr nnn + zextByte b = BitVec.ofNat 16 (nnn.toNat + b.toNat) := by
  rw [BitVec.ofNat_add, BitVec.ofNat_toNat, BitVec.ofNat_toNat, zextAddr, zextByte]

/-- The target of Bnnn does not wrap (R104). -/
theorem toNat_ofNat_addr_add_byte (nnn : Addr12) (b : Byte) :
    (BitVec.ofNat 16 (nnn.toNat + b.toNat)).toNat = nnn.toNat + b.toNat := by
  have := nnn.isLt
  have := b.isLt
  rw [BitVec.toNat_ofNat]; omega

/-! ### The stack, by the slot that is pushed or popped -/

/-- A push where the next free slot is slot k (R103). -/
theorem State.push_of_castSucc {s : State} {k : Fin 16} (h : s.sp = k.castSucc) :
    s.push = .ok { s with stack := s.stack.set k.val s.pc, sp := k.succ } := by
  obtain ⟨V, I, pc, sp, stack, DT, ST, mem, fault, draws, io⟩ := s
  obtain rfl : sp = k.castSucc := h
  exact State.push_eq_ok k.isLt

/-- A pop where the top slot is slot k (R101). -/
theorem State.pop_of_succ {s : State} {k : Fin 16} (h : s.sp = k.succ) :
    s.pop = .ok { s with sp := k.castSucc, pc := s.stack[k.val] } := by
  obtain ⟨V, I, pc, sp, stack, DT, ST, mem, fault, draws, io⟩ := s
  obtain rfl : sp = k.succ := h
  exact State.pop_eq_ok k.val.succ_ne_zero

/-- CALL's effect where the push succeeds (R103). -/
theorem effectOf_call_of_ok {t u : State} (h : t.push = .ok u) (nnn : Addr12) :
    effectOf (.call nnn) t = .ok (u.setPc (zextAddr nnn)) := by
  rw [effectOf, h]; rfl

/-- CALL's effect where the push raises (R103, R202). -/
theorem effectOf_call_of_error {t : State} {r : Raise} (h : t.push = .error r) (nnn : Addr12) :
    effectOf (.call nnn) t = .error r := by
  rw [effectOf, h]; rfl

/-! ### Where each instruction lands -/

/-- RET lands on the popped slot; a popped address above 0xFFF is left to the final pc check (R101). -/
theorem ret_lands {s : State} {k : Fin 16} (h : s.sp = k.succ) :
    Lands .ret s { s with sp := k.castSucc, pc := s.stack[k.val] } :=
  lands_of_ok (exec_eq_runEffect _ s) (State.pop_of_succ (s := s.advance) h)

/-- An instruction that lands at an address field has passed the final pc check (R87, R102, R103). -/
theorem Lands.exec_eq_of_pc_eq_zextAddr {i : Instr} {s t : State} {nnn : Addr12} (h : Lands i s t)
    (hpc : t.pc = zextAddr nnn) : exec i s = .next t :=
  h.1 (hpc ▸ toNat_zextAddr_le nnn)

/-- CALL below a full stack (R103). -/
theorem exec_call_of_castSucc {s : State} {k : Fin 16} (h : s.sp = k.castSucc) (nnn : Addr12) :
    exec (.call nnn) s = .next
      { s with stack := s.stack.set k.val (s.pc + 2), sp := k.succ, pc := BitVec.ofNat 16 nnn.toNat } := by
  have heffect := effectOf_call_of_ok (State.push_of_castSucc (s := s.advance) h) nnn
  rw [← zextAddr_eq_ofNat]
  exact (lands_of_ok (exec_eq_runEffect _ s) heffect).exec_eq_of_pc_eq_zextAddr rfl

/-- JP_V0 lands on the sum (R104). -/
theorem jpV0_lands (s : State) (nnn : Addr12) :
    Lands (.jpV0 nnn) s { s with pc := BitVec.ofNat 16 (nnn.toNat + (s.reg 0).toNat) } := by
  rw [← zextAddr_add_zextByte]
  exact lands_of_ok (exec_eq_runEffect _ s) rfl

end Sys2Proof.Machine

/-- Settles O27: RET pops the slot below sp, and the pop of an empty stack raises. -/
theorem retPopsTheReturnAddress : Obligations.RetPopsTheReturnAddress := by
  refine ⟨encode_and_opcodeMask .ret, fun s => ⟨fun k h => ret_lands h, fun h => ?_⟩⟩
  have hempty : s.advance.sp.val = 0 := by rw [State.advance_sp, h]; rfl
  exact traps_of_error (exec_eq_runEffect _ s) (State.pop_eq_error hempty)

/-- Settles O29: CALL pushes the advanced pc, its target passes the final pc check, and the push on a full stack raises. -/
theorem callPushesAndJumps : Obligations.CallPushesAndJumps := by
  refine fun s nnn => ⟨encode_and_opcodeMask (.call nnn), fun k h => exec_call_of_castSucc h nnn, fun h => ?_⟩
  have hfull : ¬ s.advance.sp.val < 16 := by rw [State.advance_sp, h]; decide
  exact traps_of_error (exec_eq_runEffect _ s) (effectOf_call_of_error (State.push_eq_error hfull) nnn)

/-- Settles O30: the sum does not wrap, so the final pc check compares the sum itself. -/
theorem jpV0AddsV0 : Obligations.JpV0AddsV0 := by
  intro s nnn
  obtain ⟨hin, hout⟩ := jpV0_lands s nnn
  rw [toNat_ofNat_addr_add_byte] at hin hout
  exact ⟨encode_and_opcodeMask (.jpV0 nnn), hin, hout⟩

/-- Settles O31: slot k holds the CALL's a + 2, which the RET pops and which lies inside memory. -/
theorem returnUndoesCall : Obligations.ReturnUndoesCall := by
  intro s u nnn k hsp hpc
  refine ⟨_, exec_call_of_castSucc hsp nnn, rfl, fun husp huslot => ?_⟩
  have hslot : u.stack[k.val] = s.pc + 2 := huslot.trans (Vector.getElem_set_self k.isLt)
  have hin : (u.stack[k.val]).toNat ≤ 0xFFF := by
    rw [hslot, BitVec.toNat_add, show (2 : Word).toNat = 2 from rfl]; omega
  exact ⟨_, (ret_lands husp).1 hin, hslot, hsp.symm⟩

/-- Settles O26: the request stands whether or not the final pc check passes. -/
theorem clsSendsOneClear : Obligations.ClsSendsOneClear :=
  ⟨encode_and_opcodeMask .cls, fun s => lands_of_ok (exec_eq_runEffect _ s) rfl⟩

/-- Settles O28: an address field is at most 0xFFF, so the final pc check passes. -/
theorem jpSetsPc : Obligations.JpSetsPc := by
  intro s nnn
  have hlands : Lands (.jp nnn) s { s with pc := zextAddr nnn } := lands_of_ok (exec_eq_runEffect _ s) rfl
  rw [← zextAddr_eq_ofNat]
  exact ⟨encode_and_opcodeMask (.jp nnn), hlands.exec_eq_of_pc_eq_zextAddr rfl⟩

end

section
/-! PROOFS. Conditional skips: where the comparison skips and the key skips land, and that a skip taken does not look at the
word it skips (spec/41_skips.md R120 to R126). -/

open Sys2Proof Sys2Proof.Machine

namespace Sys2Proof.Machine

/-! ### The shared shape of the six skips: a condition, after whatever requests -/

/-- pc after the advance and a skip (R120). -/
theorem State.advance_skipIf (s : State) (c : Bool) :
    s.advance.skipIf c = { s with pc := if c = true then s.pc + 4 else s.pc + 2 } := by
  have hskip : s.pc + 2 + 2 = s.pc + 4 := BitVec.add_assoc s.pc 2 2
  simp only [State.skipIf, State.skip, State.advance, hskip]

section
variable {i : Instr} {s u : State} {c : Bool} {P : Prop} [Decidable P]
  (h : effectOf i s.advance = .ok (u.advance.skipIf c))
include h

/-- A skip that is taken where `P` holds; `u` is `s` after the skip's requests. -/
theorem lands_of_skipIf (hc : c = true ↔ P) : Lands i s { u with pc := if P then u.pc + 4 else u.pc + 2 } := by
  simp only [State.advance_skipIf, hc] at h
  exact lands_of_ok (exec_eq_runEffect i s) h

/-- A skip that is taken where `P` does not hold. -/
theorem lands_of_skipUnless (hc : c = true ↔ ¬P) : Lands i s { u with pc := if P then u.pc + 2 else u.pc + 4 } := by
  rw [← ite_not]
  exact lands_of_skipIf h hc

end

/-! ### Where each skip lands -/

section
variable (s : State) (x y : Reg) (kk : Byte)

theorem seImm_lands : Lands (.seImm x kk) s { s with pc := if s.reg x = kk then s.pc + 4 else s.pc + 2 } :=
  lands_of_skipIf rfl beq_iff_eq

theorem sneImm_lands : Lands (.sneImm x kk) s { s with pc := if s.reg x = kk then s.pc + 2 else s.pc + 4 } :=
  lands_of_skipUnless rfl bne_iff_ne

theorem seReg_lands : Lands (.seReg x y) s { s with pc := if s.reg x = s.reg y then s.pc + 4 else s.pc + 2 } :=
  lands_of_skipIf rfl beq_iff_eq

theorem sneReg_lands : Lands (.sneReg x y) s { s with pc := if s.reg x = s.reg y then s.pc + 2 else s.pc + 4 } :=
  lands_of_skipUnless rfl bne_iff_ne

/-- SKP skips on the answer to its one request (R125). -/
theorem skp_lands : Lands (.skp x) s { s.requestDown (s.reg x) with
    pc := if s.downAnswer (s.reg x) = true then s.pc + 4 else s.pc + 2 } :=
  lands_of_skipIf (u := s.requestDown (s.reg x)) rfl .rfl

/-- SKNP makes the same request and skips on the opposite answer (R126). -/
theorem sknp_lands : Lands (.sknp x) s { s.requestDown (s.reg x) with
    pc := if s.downAnswer (s.reg x) = true then s.pc + 2 else s.pc + 4 } :=
  lands_of_skipUnless (u := s.requestDown (s.reg x)) rfl Bool.not_iff_not

end

/-! ### A skip that is taken -/

/-- A skip whose condition holds lands on a + 4, with memory as it was. -/
theorem exists_lands_of_takesSkip {i : Instr} {s : State} (h : s.takesSkip i) :
    ∃ draws io, Lands i s { s with pc := s.pc + 4, draws := draws, io := io } := by
  cases i with
  | seImm x kk => exact ⟨_, _, if_pos h ▸ seImm_lands s x kk⟩
  | sneImm x kk => exact ⟨_, _, if_neg h ▸ sneImm_lands s x kk⟩
  | seReg x y => exact ⟨_, _, if_pos h ▸ seReg_lands s x y⟩
  | sneReg x y => exact ⟨_, _, if_neg h ▸ sneReg_lands s x y⟩
  | skp x => exact ⟨_, _, if_pos h ▸ skp_lands s x⟩
  | sknp x => exact ⟨_, _, if_neg (Bool.eq_false_iff.mp h) ▸ sknp_lands s x⟩
  | _ => exact h.elim

/-- The six skips have no operand that can be ill formed (R77). -/
theorem wellFormed_of_takesSkip {i : Instr} {s : State} (h : s.takesSkip i) : i.wellFormed = true := by
  cases i with
  | drw => exact h.elim
  | _ => rfl

/-- A skip's condition does not depend on memory. -/
theorem State.takesSkip_with_mem (s : State) (m : Memory) (i : Instr) :
    ({ s with mem := m } : State).takesSkip i ↔ s.takesSkip i := .rfl

/-- The fetch at an address is not changed by the two bytes after the fetched word. -/
theorem fetch16_set_following {s : State} (hs : s.mem.wf = true) {a : Nat} (ha : a ≤ 0xFFB) (b c : Byte) :
    fetch16 { s with mem := (s.mem.set (a + 2) b).set (a + 3) c } a = fetch16 s a := by
  have hs' : (s.mem.set (a + 2) b).wf = true := Memory.wf_set b hs (by simp only [Config.memSize]; omega)
  have hget (d : Nat) (hd : d < a + 2) : ((s.mem.set (a + 2) b).set (a + 3) c).get d = s.mem.get d := by
    rw [Memory.get_set hs', if_neg (by omega), Memory.get_set hs, if_neg (by omega)]
  rw [fetch16_of_le _ (by omega), fetch16_of_le _ (by omega), hget a (by omega), hget (a + 1) (by omega)]

end Sys2Proof.Machine

/-- Settles O33: each comparison skip is one condition on the registers. -/
theorem comparisonSkips : Obligations.ComparisonSkips := fun s x y kk =>
  ⟨⟨encode_and_opcodeMask (.seImm x kk), seImm_lands s x kk⟩, ⟨encode_and_opcodeMask (.sneImm x kk), sneImm_lands s x kk⟩,
    ⟨encode_and_opcodeMask (.seReg x y), seReg_lands s x y⟩, ⟨encode_and_opcodeMask (.sneReg x y), sneReg_lands s x y⟩⟩

/-- Settles O34: the condition of both is the answer to the one request they make. -/
theorem keySkips : Obligations.KeySkips := fun s x =>
  ⟨encode_and_opcodeMask (.skp x), encode_and_opcodeMask (.sknp x), skp_lands s x, sknp_lands s x⟩

/-- Settles O35: neither the fetch at a nor the skip's condition depends on the bytes at a + 2 and a + 3, and from at most
0xFFB the skip ends inside memory. -/
theorem skippedWordIsNeverDecoded : Obligations.SkippedWordIsNeverDecoded := by
  intro s i b c hs hr hpc hf htakes m
  have htakes' : ({ s.betweenSteps with mem := m } : State).takesSkip i := (s.betweenSteps.takesSkip_with_mem m i).2 htakes
  have hf' : fetch16 { s.betweenSteps with mem := m } s.pc.toNat = .ok (encode i) :=
    (fetch16_set_following hs.memory hpc b c).trans hf
  have hin : (s.pc + 4).toNat ≤ 0xFFF := by
    rw [BitVec.toNat_add, show (4 : Word).toNat = 4 from rfl]; omega
  obtain ⟨draws, io, hlands⟩ := exists_lands_of_takesSkip htakes'
  have hstep : step { s with mem := m } = exec i { s.betweenSteps with mem := m } :=
    stepPort_of_decode hr hf' (decodeWord_encode (wellFormed_of_takesSkip htakes))
  exact ⟨_, hstep.trans (hlands.1 hin), rfl, hr, rfl⟩

end

section
/-! PROOFS. Arithmetic and logic: the bytes and flags that the instructions compute as arithmetic on the operands' values,
and where each instruction lands (spec/42_alu.md R140 to R153). -/

open Sys2Proof Sys2Proof.Machine

namespace Sys2Proof.Machine

/-! ### The results as arithmetic mod 256 -/

section
variable (a b : Byte)

/-- The sum of two bytes (R142, R147). -/
theorem byte_add_eq_ofNat : a + b = BitVec.ofNat 8 ((a.toNat + b.toNat) % 256) :=
  BitVec.eq_of_toNat_eq (by rw [BitVec.toNat_add, BitVec.toNat_ofNat, Nat.mod_mod])

/-- The difference of two bytes (R148, R150). -/
theorem byte_sub_eq_ofNat : a - b = BitVec.ofNat 8 ((a.toNat + 256 - b.toNat) % 256) := by
  bv_omega

/-- A byte shifted right by one bit (R149). -/
theorem byte_ushiftRight_one_eq_ofNat : a >>> 1 = BitVec.ofNat 8 (a.toNat / 2) := by
  bv_omega

/-- A byte shifted left by one bit (R151). -/
theorem byte_shiftLeft_one_eq_ofNat : a <<< 1 = BitVec.ofNat 8 (a.toNat * 2 % 256) := by
  bv_omega

/-! ### The bit shifted out -/

/-- A flag that is a bit of a byte holds that binary digit of its value. -/
theorem flagByte_getLsbD (k : Nat) : flagByte (a.getLsbD k) = BitVec.ofNat 8 (a.toNat / 2 ^ k % 2) := by
  rw [BitVec.getLsbD, Nat.testBit_eq_decide_div_mod_eq, flagByte]
  rcases Nat.mod_two_eq_zero_or_one (a.toNat / 2 ^ k) with h | h <;> simp [h]

/-- The flag of a right shift is the old value's lowest digit (R149). -/
theorem flagByte_shiftedOutRight : flagByte (shiftedOutRight a) = BitVec.ofNat 8 (a.toNat % 2) := by
  rw [shiftedOutRight, flagByte_getLsbD, Nat.pow_zero, Nat.div_one]

/-- The flag of a left shift is the old value's highest digit (R151). -/
theorem flagByte_shiftedOutLeft : flagByte (shiftedOutLeft a) = BitVec.ofNat 8 (a.toNat / 128) := by
  have hdigit : a.toNat / 128 < 2 := Nat.div_lt_of_lt_mul a.isLt
  rw [shiftedOutLeft, flagByte_getLsbD, show 2 ^ 7 = 128 from rfl, Nat.mod_eq_of_lt hdigit]

end

/-! ### Where an instruction lands that writes one register, or a register and then VF -/

section
variable {i : Instr} {s : State} {x : Reg} {b v : Byte}

/-- An effect that writes Vx alone. -/
theorem lands_of_setReg (h : effectOf i s.advance = .ok (s.advance.setReg x b)) (hb : b = v) :
    Lands i s { s with V := s.V.set x.val v, pc := s.pc + 2 } :=
  hb ▸ lands_of_ok (exec_eq_runEffect i s) h

/-- An effect that writes a result to Vx and then its flag to VF (R140). -/
theorem lands_of_setResult {f : Bool} {w : Byte} (h : effectOf i s.advance = .ok (s.advance.setResult x b f)) (hb : b = v)
    (hf : flagByte f = w) : Lands i s { s with V := (s.V.set x.val v).set 15 w, pc := s.pc + 2 } :=
  hb ▸ hf ▸ lands_of_ok (exec_eq_runEffect i s) h

end

/-- A byte masked with 0x0F is below 16 (R152). -/
theorem toNat_and_0x0F_lt (b : Byte) : (b &&& 0x0F).toNat < 16 := by
  rw [BitVec.toNat_and]
  exact Nat.lt_succ_of_le Nat.and_le_right

end Sys2Proof.Machine

/-- Settles O36: each writes Vx alone; the addition of bytes is the sum mod 256. -/
theorem loadsAndAddImmediate : Obligations.LoadsAndAddImmediate := fun s x y kk =>
  ⟨⟨encode_and_opcodeMask (.ldImm x kk), lands_of_setReg rfl rfl⟩,
    ⟨encode_and_opcodeMask (.addImm x kk), lands_of_setReg rfl (byte_add_eq_ofNat (s.reg x) kk)⟩,
    ⟨encode_and_opcodeMask (.ldReg x y), lands_of_setReg rfl rfl⟩⟩

/-- Settles O37: each writes Vx alone. -/
theorem bitwiseOperations : Obligations.BitwiseOperations := fun _ x y =>
  ⟨⟨encode_and_opcodeMask (.or x y), lands_of_setReg rfl rfl⟩, ⟨encode_and_opcodeMask (.and x y), lands_of_setReg rfl rfl⟩,
    ⟨encode_and_opcodeMask (.xor x y), lands_of_setReg rfl rfl⟩⟩

/-- Settles O38: the sum mod 256 with its carry flag. -/
theorem addWithCarry : Obligations.AddWithCarry := fun s x y =>
  ⟨encode_and_opcodeMask (.addReg x y), lands_of_setResult rfl (byte_add_eq_ofNat (s.reg x) (s.reg y))
    (flagByte_carryOut (s.reg x) (s.reg y))⟩

/-- Settles O39: the two differences mod 256, each with its not-borrow flag. -/
theorem subtractWithBorrow : Obligations.SubtractWithBorrow := fun s x y =>
  ⟨encode_and_opcodeMask (.sub x y), encode_and_opcodeMask (.subn x y),
    lands_of_setResult rfl (byte_sub_eq_ofNat (s.reg x) (s.reg y)) (flagByte_notBorrow (s.reg x) (s.reg y)),
    lands_of_setResult rfl (byte_sub_eq_ofNat (s.reg y) (s.reg x)) (flagByte_notBorrow (s.reg y) (s.reg x))⟩

/-- Settles O40: half and twice the old Vx, each with the digit it loses as the flag; neither effect reads y. -/
theorem shiftsMoveOutOneBit : Obligations.ShiftsMoveOutOneBit := fun s x y =>
  ⟨encode_and_opcodeMask (.shr x y), encode_and_opcodeMask (.shl x y),
    lands_of_setResult rfl (byte_ushiftRight_one_eq_ofNat (s.reg x)) (flagByte_shiftedOutRight (s.reg x)),
    lands_of_setResult rfl (byte_shiftLeft_one_eq_ofNat (s.reg x)) (flagByte_shiftedOutLeft (s.reg x))⟩

/-- Settles O41: the effect is one request and one register write, for whatever byte is answered. -/
theorem randomIsMasked : Obligations.RandomIsMasked := by
  intro s x kk r
  refine ⟨encode_and_opcodeMask (.rnd x kk), lands_of_ok (exec_eq_runEffect _ s) rfl, fun hkk => ?_, fun hkk => ?_⟩
  · rw [hkk]; exact BitVec.and_zero
  · rw [hkk]; exact toNat_and_0x0F_lt r

end

section
/-! PROOFS. The index register and memory: the computed values of I, the bytes that BCD and the register dump store at I, and
what the register load and the sprite draw read there (spec/43_index_memory.md R170 to R177). -/

open Sys2Proof Sys2Proof.Machine

namespace Sys2Proof.Machine

/-! ### The advanced pc -/

/-- An instruction at most at 0xFFD leaves the advanced pc inside memory (R86). -/
theorem toNat_add_two_le {pc : Word} (h : pc.toNat ≤ 0xFFD) : (pc + 2).toNat ≤ 0xFFF := by
  rw [BitVec.toNat_add, show (2 : Word).toNat = 2 from rfl]; omega

/-! ### A computed I -/

/-- FONT_BASE + 5 * Vx is an address for all 8 bits of Vx (R172; decision D11). -/
theorem fontAddr_le (d : Byte) : fontAddr d ≤ 0xFFF := by
  have hbase := Config.fontBase.isLt
  have hd := d.isLt
  rw [fontAddr, Config.digitBytes]; omega

/-- An effect that computes I lands with it where it is an address (R24). -/
theorem lands_of_setIChecked {i : Instr} {s : State} {a : Nat} (he : effectOf i s.advance = s.advance.setIChecked a)
    (ha : a ≤ 0xFFF) : Lands i s { s with I := BitVec.ofNat 16 a, pc := s.pc + 2 } :=
  lands_of_ok (exec_eq_runEffect i s) (he.trans (if_neg (Nat.not_lt.mpr ha)))

/-- An effect that computes I traps with the value where it is no address (R24). -/
theorem traps_of_setIChecked {i : Instr} {s : State} {a : Nat} (he : effectOf i s.advance = s.advance.setIChecked a)
    (ha : 0xFFF < a) : Traps i s .memoryOutOfBounds (some (BitVec.ofNat 16 a)) :=
  traps_of_error (exec_eq_runEffect i s) (he.trans (if_pos ha))

/-! ### Bytes in memory -/

section
variable {m : Memory} {a : Nat} {vs : List Byte} (hm : m.wf = true) (hfit : a + vs.length ≤ Config.memSize)
include hm hfit

/-- A stored byte is read back at its own address. -/
theorem Memory.get_setBytes_add {k : Nat} (hk : k < vs.length) : (m.setBytes a vs).get (a + k) = vs[k] := by
  rw [Memory.get_setBytes hm hfit, dif_pos ⟨by omega, by omega⟩]
  simp only [Nat.add_sub_cancel_left]

/-- A byte outside the stored range reads as before. -/
theorem Memory.get_setBytes_outside {b : Nat} (hb : b < a ∨ a + vs.length ≤ b) :
    (m.setBytes a vs).get b = m.get b := by
  rw [Memory.get_setBytes hm hfit, dif_neg (by omega)]

end

/-- Consecutive bytes, listed by their offset (R52). -/
theorem Memory.getBytes_eq_map_range (m : Memory) (a n : Nat) :
    m.getBytes a n = (List.range n).map fun k => m.get (a + k) := by
  refine List.ext_getElem (by simp) fun k hk _ => ?_
  rw [Memory.getElem_getBytes, List.getElem_map, List.getElem_range]

/-- V0 to Vx loaded from consecutive bytes; the registers above x keep their values (R175). -/
theorem getElem_loadRegs_getBytes (V : Vector Byte 16) (m : Memory) (a : Nat) (x r : Reg) :
    (loadRegs V 0 (m.getBytes a (x.val + 1)))[r.val] = if r ≤ x then m.get (a + r.val) else V[r.val] := by
  rw [loadRegs_getElem]
  by_cases hr : r ≤ x
  · have hrx : r.val ≤ x.val := hr
    rw [if_pos hr, dif_pos ⟨by omega, by rw [Memory.length_getBytes]; omega⟩, Memory.getElem_getBytes, Nat.sub_zero]
  · have hrx : ¬ r.val ≤ x.val := hr
    rw [if_neg hr, dif_neg (by rw [Memory.length_getBytes]; omega)]

/-- The three digits fit where the last one's address is inside memory (R58). -/
theorem bcdDigits_fits (v : Byte) {a : Nat} (h : a + 2 ≤ 0xFFF) : a + (bcdDigits v).length ≤ Config.memSize := by
  rw [length_bcdDigits, Config.memSize]; omega

/-- The decimal digits of a byte, read back from where they were stored (R173). -/
theorem Memory.toNat_get_setBytes_bcdDigits {m : Memory} (hm : m.wf = true) (v : Byte) {a : Nat} (ha : a + 2 ≤ 0xFFF) :
    ((m.setBytes a (bcdDigits v)).get a).toNat = v.toNat / 100 ∧
    ((m.setBytes a (bcdDigits v)).get (a + 1)).toNat = v.toNat / 10 % 10 ∧
    ((m.setBytes a (bcdDigits v)).get (a + 2)).toNat = v.toNat % 10 := by
  have hv := v.isLt
  have hdigit (k d : Nat) (hk : k < 3) (hd : d < 2 ^ 8) (hkd : (bcdDigits v)[k] = BitVec.ofNat 8 d) :
      ((m.setBytes a (bcdDigits v)).get (a + k)).toNat = d := by
    rw [Memory.get_setBytes_add hm (bcdDigits_fits v ha) hk, hkd, BitVec.toNat_ofNat, Nat.mod_eq_of_lt hd]
  exact ⟨hdigit 0 _ (by omega) (by omega) rfl, hdigit 1 _ (by omega) (by omega) rfl,
    hdigit 2 _ (by omega) (by omega) rfl⟩

/-! ### The effects that read or store a range at I -/

/-- An effect that stores at least one byte at I traps with the last address where they do not fit (R58). -/
theorem traps_of_writeAtI {i : Instr} {s : State} {vs : List Byte} {k : Nat}
    (he : effectOf i s.advance = writeAtI s.advance vs) (hlen : vs.length = k + 1) (hout : 0xFFF < s.I.toNat + k) :
    Traps i s .memoryOutOfBounds (some (BitVec.ofNat 16 (s.I.toNat + k))) := by
  have hlast : s.advance.I.toNat + vs.length - 1 = s.I.toNat + k := by rw [hlen]; rfl
  have herr := writeAtI_eq_error (s := s.advance) (vs := vs) (by omega) (by rw [hlast]; exact hout)
  rw [hlast] at herr
  exact traps_of_error (exec_eq_runEffect i s) (he.trans herr)

/-- Fx65's effect where the read at I succeeds (R175). -/
theorem effectOf_ldVxMem_of_ok {t : State} {x : Reg} {bs : List Byte} (h : readAtI t (x.val + 1) = .ok bs) :
    effectOf (.ldVxMem x) t = .ok (t.setRegs bs) := by
  rw [effectOf, h]; rfl

/-- Fx65's effect where the read at I raises (R175). -/
theorem effectOf_ldVxMem_of_error {t : State} {x : Reg} {r : Raise} (h : readAtI t (x.val + 1) = .error r) :
    effectOf (.ldVxMem x) t = .error r := by
  rw [effectOf, h]; rfl

/-- DRW's effect where the read at I succeeds: one draw request, then VF from its answer (R176). -/
theorem effectOf_drw_of_ok {t : State} {n : Nat} {sprite : List Byte} (x y : Reg) (h : readAtI t n = .ok sprite) :
    effectOf (.drw x y n) t =
      .ok ((t.requestDraw (t.reg x) (t.reg y) sprite).setFlag (t.drawAnswer (t.reg x) (t.reg y) sprite)) := by
  rw [effectOf, h]; rfl

/-- DRW's effect where the read at I raises: no request (R176). -/
theorem effectOf_drw_of_error {t : State} {n : Nat} {r : Raise} (x y : Reg) (h : readAtI t n = .error r) :
    effectOf (.drw x y n) t = .error r := by
  rw [effectOf, h]; rfl

/-! ### Where the BCD store, the register load and the sprite draw land -/

/-- A BCD store inside memory (R173). -/
theorem ldBVx_lands {s : State} {x : Reg} (h : s.I.toNat + 2 ≤ 0xFFF) :
    Lands (.ldBVx x) s { s with mem := s.mem.setBytes s.I.toNat (bcdDigits (s.reg x)), pc := s.pc + 2 } :=
  lands_of_ok (exec_eq_runEffect _ s) (writeAtI_eq_ok (s := s.advance) (bcdDigits_fits (s.reg x) h))

/-- A register load inside memory (R175). -/
theorem ldVxMem_lands {s : State} {x : Reg} (h : s.I.toNat + x.val ≤ 0xFFF) :
    Lands (.ldVxMem x) s
      { s with V := loadRegs s.V 0 (s.mem.getBytes s.I.toNat (x.val + 1)), pc := s.pc + 2 } := by
  have hfit : s.I.toNat + (x.val + 1) ≤ Config.memSize ∨ x.val + 1 = 0 := by rw [Config.memSize]; omega
  exact lands_of_ok (exec_eq_runEffect _ s) (effectOf_ldVxMem_of_ok (readAtI_eq_ok (s := s.advance) hfit))

/-- A sprite draw inside memory, or of no byte (R176; decision D13). -/
theorem drw_lands {s : State} {n : Nat} (x y : Reg) (h : n = 0 ∨ s.I.toNat + n - 1 ≤ 0xFFF) :
    Lands (.drw x y n) s
      ((s.advance.requestDraw (s.reg x) (s.reg y) (s.mem.getBytes s.I.toNat n)).setFlag
        (s.drawAnswer (s.reg x) (s.reg y) (s.mem.getBytes s.I.toNat n))) := by
  have hfit : s.I.toNat + n ≤ Config.memSize ∨ n = 0 := by rw [Config.memSize]; omega
  exact lands_of_ok (exec_eq_runEffect _ s) (effectOf_drw_of_ok x y (readAtI_eq_ok (s := s.advance) hfit))

end Sys2Proof.Machine

/-- Settles O42: the effect sets I to the zero-extended field. -/
theorem loadIndex : Obligations.LoadIndex := by
  intro s nnn
  rw [← zextAddr_eq_ofNat]
  exact ⟨encode_and_opcodeMask (.ldI nnn), lands_of_ok (exec_eq_runEffect _ s) rfl⟩

/-- Settles O43: the sum is a computed I. -/
theorem addToIndex : Obligations.AddToIndex := fun _ x =>
  ⟨encode_and_opcodeMask (.addIVx x), lands_of_setIChecked rfl, traps_of_setIChecked rfl⟩

/-- Settles O44: the font address is a computed I that is always an address. -/
theorem fontAddress : Obligations.FontAddress := fun s x =>
  ⟨encode_and_opcodeMask (.ldFVx x), fontAddr_le (s.reg x), lands_of_setIChecked rfl (fontAddr_le (s.reg x))⟩

/-- Settles O45: the digits are the three bytes stored at I. -/
theorem bcdStore : Obligations.BcdStore := by
  intro s x hm
  refine ⟨encode_and_opcodeMask (.ldBVx x), fun hin => ?_, traps_of_writeAtI rfl rfl⟩
  obtain ⟨hhundreds, htens, hones⟩ := Memory.toNat_get_setBytes_bcdDigits hm (s.reg x) hin
  refine ⟨_, ldBVx_lands hin, hhundreds, htens, hones, fun b hb => ?_⟩
  refine Memory.get_setBytes_outside hm (bcdDigits_fits (s.reg x) hin) ?_
  rw [length_bcdDigits]; omega

/-- Settles O46: V0 to Vx are the bytes stored at I. -/
theorem registerDump : Obligations.RegisterDump := by
  intro s x hm
  refine ⟨encode_and_opcodeMask (.ldMemVx x), fun hin => ?_, traps_of_writeAtI rfl (State.length_regsTo _ x)⟩
  refine ⟨_, ldMemVx_lands hin, fun r hr => Memory.get_setBytes_regsTo hm s hin hr, fun b hb => ?_⟩
  refine Memory.get_setBytes_outside hm (s.regsTo_fits hin) ?_
  rw [State.length_regsTo]; omega

/-- Settles O47: the registers up to x are the bytes read at I, and a read that raises loads none. -/
theorem registerLoad : Obligations.RegisterLoad := by
  intro s x
  refine ⟨encode_and_opcodeMask (.ldVxMem x), fun hin => ?_, fun hout => ?_⟩
  · exact ⟨_, ldVxMem_lands hin, getElem_loadRegs_getBytes s.V s.mem s.I.toNat x⟩
  · exact traps_of_error (exec_eq_runEffect _ s)
      (effectOf_ldVxMem_of_error (readAtI_eq_error (s := s.advance) x.val.succ_pos hout))

/-- Settles O48: the load reads each register's byte where the dump stored it. -/
theorem dumpThenLoadRestores : Obligations.DumpThenLoadRestores := by
  intro s u x hm hx hs hu hI
  refine ⟨_, (ldMemVx_lands hx).1 (toNat_add_two_le hs), fun hmem => ?_⟩
  refine ⟨_, (ldVxMem_lands (hI ▸ hx)).1 (toNat_add_two_le hu), fun r hr => ?_⟩
  have hbyte : u.mem.get (u.I.toNat + r.val) = s.reg r := by
    rw [hmem, hI]; exact Memory.get_setBytes_regsTo hm s hx hr
  exact (getElem_loadRegs_getBytes u.V u.mem u.I.toNat x r).trans ((if_pos hr).trans hbyte)

/-- Settles O50: the sprite is the bytes read at I, and a read that raises comes before the request. -/
theorem drawSprite : Obligations.DrawSprite := by
  intro s x y n sprite collided
  refine ⟨encode_and_opcodeMask (.drw x y n), fun hin => ?_, fun ⟨hn, hout⟩ => ?_⟩
  · have hlands := drw_lands x y hin
    rw [Memory.getBytes_eq_map_range] at hlands
    exact hlands
  · exact traps_of_error (exec_eq_runEffect _ s)
      (effectOf_drw_of_error x y (readAtI_eq_error (s := s.advance) hn hout))

end

section
/-! PROOFS. Timer access and the key wait: where LD_VX_K lands on each answer of the keypad, and that the three timer
instructions make their one write (spec/44_timers_keys.md R190 to R193). -/

open Sys2Proof Sys2Proof.Machine

namespace Sys2Proof.Machine

/-! ### The key wait -/

/-- Going back after the advance leaves only the poll: pc is the instruction's own address again (R191). -/
theorem State.advance_requestPoll_retry (s : State) : s.advance.requestPoll.retry = s.requestPoll := by
  have hpc : s.pc + 2 - 2 = s.pc := BitVec.add_sub_cancel s.pc 2
  simp only [State.retry, State.requestPoll, State.pollAnswer, State.advance, hpc]

section
variable {t : State} (x : Reg)

/-- Fx0A's effect where the poll is answered with no key (R191). -/
theorem effectOf_ldVxK_of_none (h : t.pollAnswer = none) : effectOf (.ldVxK x) t = .ok t.requestPoll.retry := by
  rw [effectOf, h]

/-- Fx0A's effect where the poll is answered with a key (R191). -/
theorem effectOf_ldVxK_of_some {k : Fin 16} (h : t.pollAnswer = some k) :
    effectOf (.ldVxK x) t = .ok (t.requestPoll.setReg x (BitVec.ofNat 8 k.val)) := by
  rw [effectOf, h]

end

/-- With no key the instruction lands on its own address, the poll logged (R191; decision D15). -/
theorem ldVxK_lands_of_none {s : State} (x : Reg) (h : s.pollAnswer = none) : Lands (.ldVxK x) s s.requestPoll := by
  have heffect := effectOf_ldVxK_of_none (t := s.advance) x h
  rw [State.advance_requestPoll_retry] at heffect
  exact lands_of_ok (exec_eq_runEffect _ s) heffect

/-- With a key the instruction lands on a + 2 with the key's number in Vx, the poll logged (R191; decision D15). -/
theorem ldVxK_lands_of_some {s : State} (x : Reg) {k : Fin 16} (h : s.pollAnswer = some k) :
    Lands (.ldVxK x) s { s.requestPoll with V := s.V.set x.val (BitVec.ofNat 8 k.val), pc := s.pc + 2 } :=
  lands_of_ok (exec_eq_runEffect _ s) (effectOf_ldVxK_of_some (t := s.advance) x h)

end Sys2Proof.Machine

/-- Settles O51: the read of DT is a write of Vx alone, and the other two effects write their timer alone. -/
theorem timerAccess : Obligations.TimerAccess := fun s x =>
  ⟨encode_and_opcodeMask (.ldVxDt x), encode_and_opcodeMask (.ldDtVx x), encode_and_opcodeMask (.ldStVx x),
    lands_of_setReg rfl rfl, lands_of_ok (exec_eq_runEffect _ s) rfl, lands_of_ok (exec_eq_runEffect _ s) rfl⟩

/-- Settles O52: the one poll is answered with no key or with a key, and the instruction lands either way. -/
theorem keyWait : Obligations.KeyWait := by
  intro s x answer polled
  refine ⟨encode_and_opcodeMask (.ldVxK x), ?_⟩
  cases hanswer : answer with
  | none => exact ldVxK_lands_of_none x hanswer
  | some k => exact ldVxK_lands_of_some x hanswer

end

section
/-! PROOFS. The host's ports: what a tick and a load make of a state, and that every request, so every schedule of requests,
keeps the invariant (spec/60_exceptions.md R211 to R218; spec/70_reset_and_hazards.md R230, R231). -/

open Sys2Proof Sys2Proof.Machine

namespace Sys2Proof.Machine

/-! ### The tick -/

/-- A decremented timer (R211; decision D16). -/
theorem timerDown_eq (t : Byte) : timerDown t = if 0 < t.toNat then BitVec.ofNat 8 (t.toNat - 1) else t := by
  apply BitVec.eq_of_toNat_eq
  rw [toNat_timerDown]
  split
  · rw [BitVec.toNat_ofNat]; omega
  · omega

/-- The invariant does not speak of the timers. -/
theorem State.Inv.tick {s : State} (h : s.Inv) : s.tick.Inv where
  memory := h.memory
  pc := h.pc
  index := h.index
  slots := h.slots
  pending := h.pending
  record := h.record

/-! ### The load -/

/-- A load that succeeds: the image fits, and the state is the reset state but for its memory and the world outside the
block (R230, R231, R233). -/
theorem State.load_eq_some {s t : State} {image : List Byte} : s.load image = some t ↔
    imageFits image = true ∧
      { State.reset with mem := Memory.setBytes [] Config.loadBase image, draws := s.draws, io := s.io } = t := by
  rw [State.load, Option.ite_none_right_eq_some, Option.some.injEq]

/-- A load clears a latched fault (R207, R235). -/
theorem State.running_of_load {s t : State} {image : List Byte} (h : s.load image = some t) : t.running := by
  obtain ⟨-, rfl⟩ := State.load_eq_some.mp h
  rfl

/-- The reset state meets the invariant: no slot of the stack is pending, and all of them are 0. -/
theorem State.reset_inv : State.reset.Inv where
  memory := rfl
  pc := by decide
  index := by decide
  slots := by decide
  pending := by decide
  record := nofun

/-- A load that succeeds establishes the invariant, whatever the state before it: an image that fits is written inside
memory. -/
theorem State.inv_of_load {s t : State} {image : List Byte} (h : s.load image = some t) : t.Inv := by
  obtain ⟨hfits, rfl⟩ := State.load_eq_some.mp h
  obtain ⟨-, hpc, hindex, hslots, hpending, hrecord⟩ := State.reset_inv
  exact ⟨Memory.wf_setBytes Memory.wf_nil (of_decide_eq_true hfits), hpc, hindex, hslots, hpending, hrecord⟩

/-! ### A request and a schedule -/

/-- Every request that ends in a state keeps the invariant (R215 to R218). -/
theorem serve_inv {q : HostRequest} {s t : State} (hs : s.Inv) (h : serve q s = .next t) : t.Inv := by
  cases q with
  | step => exact stepPort_inv hs h
  | tick => cases h; exact hs.tick
  | load image =>
    cases hl : s.load image with
    | none => simp only [serve, hl] at h; cases h
    | some u => simp only [serve, hl] at h; cases h; exact State.inv_of_load hl

/-- A schedule ends in a state where its first request does and the rest, from there, does. -/
theorem exists_of_serveAll_cons {q : HostRequest} {qs : List HostRequest} {s t : State}
    (h : serveAll (q :: qs) s = .next t) : ∃ u, serve q s = .next u ∧ serveAll qs u = .next t := by
  rw [serveAll] at h
  cases hq : serve q s with
  | next u => simp only [hq] at h; exact ⟨u, rfl, h⟩
  | fault r => simp only [hq] at h; cases h
  | refused r => simp only [hq] at h; cases h

/-- Every schedule that ends in a state keeps the invariant, by induction on the requests. -/
theorem serveAll_inv {qs : List HostRequest} {s t : State} (hs : s.Inv) (h : serveAll qs s = .next t) : t.Inv := by
  induction qs generalizing s with
  | nil => cases h; exact hs
  | cons q qs ih =>
    obtain ⟨u, hq, hrest⟩ := exists_of_serveAll_cons h
    exact ih (serve_inv hs hq) hrest

end Sys2Proof.Machine

/-- Settles O16: each of the three requests keeps the invariant, and a schedule serves them one after the other. -/
theorem everyScheduleKeepsTheInvariant : Obligations.EveryScheduleKeepsTheInvariant :=
  fun _ _ _ => serveAll_inv

/-- Settles O15: a tick writes the timers only, and a load writes an image that fits over the reset state. -/
theorem tickAndLoadKeepTheInvariant : Obligations.TickAndLoadKeepTheInvariant :=
  ⟨fun _ => State.Inv.tick, fun _ _ _ => State.inv_of_load⟩

/-- Settles O53: both timers are decremented alike. -/
theorem tickDecrementsNonzeroTimers : Obligations.TickDecrementsNonzeroTimers := by
  intro s
  rw [State.tick, timerDown_eq, timerDown_eq]

end

section
/-! PROOFS. Faults: when an instruction completes, the requests that it makes, and what a step that faults leaves and
records (spec/60_exceptions.md R200 to R208, R222). -/

open Sys2Proof Sys2Proof.Machine

namespace Sys2Proof

/-- How many capability requests the instruction's effect makes where it raises no fault (R222). -/
def Instr.requests : Instr → Nat
  | .cls | .skp _ | .sknp _ | .ldVxK _ | .rnd _ _ | .drw _ _ _ => 1
  | .ret | .jp _ | .call _ | .seImm _ _ | .sneImm _ _ | .seReg _ _ | .ldImm _ _ | .addImm _ _ | .ldReg _ _ | .or _ _
  | .and _ _ | .xor _ _ | .addReg _ _ | .sub _ _ | .shr _ _ | .subn _ _ | .shl _ _ | .sneReg _ _ | .ldI _ | .jpV0 _
  | .ldVxDt _ | .ldDtVx _ | .ldStVx _ | .addIVx _ | .ldFVx _ | .ldBVx _ | .ldMemVx _ | .ldVxMem _ => 0

end Sys2Proof

namespace Sys2Proof.Machine

/-! ### The requests that an effect makes -/

theorem State.setIChecked_io {t u : State} {a : Nat} (h : t.setIChecked a = .ok u) : u.io = t.io := by
  rcases t.setIChecked_cases a with ⟨-, he⟩ | ⟨-, he⟩ <;> rw [he] at h <;> cases h
  rfl

theorem writeAtI_io {t u : State} {vs : List Byte} (hv : 0 < vs.length) (h : writeAtI t vs = .ok u) : u.io = t.io := by
  rcases writeAtI_cases t hv with ⟨-, he⟩ | ⟨-, he⟩ <;> rw [he] at h <;> cases h
  rfl

/-- An effect that raises no fault adds its requests to the log, in front of those before (R222). -/
theorem effectOf_log {i : Instr} {t u : State} (h : effectOf i t = .ok u) :
    ∃ es : List Exchange, es.length = i.requests ∧ u.io = es ++ t.io := by
  cases i with
  | ret => exact ⟨[], rfl, by rw [State.pop_frame h]; rfl⟩
  | call nnn =>
    rcases t.push_cases with ⟨_, he⟩ | ⟨_, he⟩
    · cases (effectOf_call_of_ok he nnn).symm.trans h; exact ⟨[], rfl, rfl⟩
    · cases (effectOf_call_of_error he nnn).symm.trans h
  | addIVx x => exact ⟨[], rfl, State.setIChecked_io h⟩
  | ldFVx x => exact ⟨[], rfl, State.setIChecked_io h⟩
  | ldBVx x => exact ⟨[], rfl, writeAtI_io (by simp) h⟩
  | ldMemVx x => exact ⟨[], rfl, writeAtI_io (by simp) h⟩
  | ldVxMem x =>
    rcases readAtI_cases t (x.val + 1) with ⟨_, he⟩ | ⟨_, _, he⟩
    · cases (effectOf_ldVxMem_of_ok he).symm.trans h; exact ⟨[], rfl, rfl⟩
    · cases (effectOf_ldVxMem_of_error he).symm.trans h
  | drw x y n =>
    rcases readAtI_cases t n with ⟨_, he⟩ | ⟨_, _, he⟩
    · cases (effectOf_drw_of_ok x y he).symm.trans h; exact ⟨[_], rfl, rfl⟩
    · cases (effectOf_drw_of_error x y he).symm.trans h
  | ldVxK x =>
    cases hp : t.pollAnswer with
    | none => cases (effectOf_ldVxK_of_none x hp).symm.trans h; exact ⟨[_], rfl, rfl⟩
    | some k => cases (effectOf_ldVxK_of_some x hp).symm.trans h; exact ⟨[_], rfl, rfl⟩
  | cls | skp | sknp | rnd => cases h; exact ⟨[_], rfl, rfl⟩
  | jp | seImm | sneImm | seReg | ldImm | addImm | ldReg | or | and | xor | addReg | sub | shr | subn | shl | sneReg | ldI
  | jpV0 | ldVxDt | ldDtVx | ldStVx => cases h; exact ⟨[], rfl, rfl⟩

/-- The log after an instruction: as before where its effect raises, and otherwise the effect's own, which a fault of the
final pc check does not take back (R85, R205). -/
theorem exec_log_cases {i : Instr} {s u : State} (h : exec i s = .next u) :
    (∃ r, effectOf i s.advance = .error r ∧ u.io = s.io) ∨
    ∃ es : List Exchange, es.length = i.requests ∧ u.io = es ++ s.io := by
  rw [exec_eq_runEffect] at h
  rcases runEffect_cases h with ⟨he, -⟩ | ⟨r, he, rfl⟩ | ⟨t, he, -, rfl⟩
  · exact .inr (effectOf_log (t := s.advance) he)
  · exact .inl ⟨r, he, rfl⟩
  · obtain ⟨es, hlen, hio⟩ := effectOf_log (t := s.advance) he
    exact .inr ⟨es, hlen, hio⟩

/-- An instruction whose effect makes no request leaves the log as it was, whether it faults or not. -/
theorem exec_io_of_no_request {i : Instr} {s u : State} (h : exec i s = .next u) (hi : i.requests = 0) : u.io = s.io := by
  rcases exec_log_cases h with ⟨_, -, hio⟩ | ⟨es, hlen, hio⟩
  · exact hio
  · rw [hio, List.length_eq_zero_iff.mp (hlen.trans hi), List.nil_append]

/-- An instruction whose effect makes one request and raises no fault adds one exchange to the log. -/
theorem exec_io_of_one_request {i : Instr} {s u : State} (h : exec i s = .next u) (hi : i.requests = 1)
    (hok : ∀ r, effectOf i s.advance ≠ .error r) : ∃ e, u.io = e :: s.io := by
  rcases exec_log_cases h with ⟨r, he, -⟩ | ⟨es, hlen, hio⟩
  · exact absurd he (hok r)
  · obtain ⟨e, rfl⟩ := List.length_eq_one_iff.mp (hlen.trans hi)
    exact ⟨e, hio⟩

/-- DRW adds one exchange to the log, and none where its range check raises, which comes before the request (R176, R222). -/
theorem drw_io {s u : State} {x y : Reg} {n : Nat} (h : exec (.drw x y n) s = .next u) :
    if 0 < n ∧ 0xFFF < s.I.toNat + n - 1 then u.io = s.io else ∃ e, u.io = e :: s.io := by
  rcases readAtI_cases s.advance n with ⟨hin, he⟩ | ⟨hn, hout, he⟩
  · rw [State.advance_I, Config.memSize] at hin
    rw [if_neg (by omega)]
    exact exec_io_of_one_request h rfl fun r => by rw [effectOf_drw_of_ok x y he]; nofun
  · rw [if_pos ⟨hn, hout⟩]
    have htrap : exec (.drw x y n) s = .next (s.takeFault s (some (encode (.drw x y n))) _) :=
      (exec_eq_runEffect _ s).trans (runEffect_of_error (effectOf_drw_of_error x y he))
    cases htrap.symm.trans h
    rfl

/-! ### When an instruction completes -/

/-- The instruction's effect raises no fault and the final pc check passes (R85). -/
def Completes (i : Instr) (s : State) : Prop := ∃ u, effectOf i s.advance = .ok u ∧ u.pc.toNat ≤ 0xFFF

/-- No change of an instruction touches the fault status. -/
theorem Changes.fault_eq {i : Instr} {t u : State} (h : Changes t i u) : u.fault = t.fault := by
  cases h with
  | control | register | result | draw | load | index | delay | sound | memory => rfl
  | pop _ he => rw [State.pop_frame he]
  | push _ v he => rw [State.push_frame he]; rfl

/-- An instruction that completes leaves a state without a fault and with pc inside memory. -/
theorem Completes.exec {i : Instr} {s : State} (h : Completes i s) (hr : s.running) :
    ∃ t, exec i s = .next t ∧ t.running ∧ t.pc.toNat ≤ 0xFFF := by
  obtain ⟨u, he, hpc⟩ := h
  exact ⟨u, (lands_of_ok (exec_eq_runEffect i s) he).1 hpc, (effectOf_changes he).fault_eq.trans hr, hpc⟩

/-- An instruction that does not complete leaves a faulted state. -/
theorem exec_of_not_completes {i : Instr} {s : State} (h : ¬ Completes i s) :
    ∃ t, exec i s = .next t ∧ t.fault ≠ none := by
  obtain ⟨t, ht⟩ : ∃ t, runEffect (encode i) s (effectOf i) = .next t := ⟨_, rfl⟩
  refine ⟨t, (exec_eq_runEffect i s).trans ht, ?_⟩
  rcases runEffect_cases ht with hc | ⟨r, -, rfl⟩ | ⟨u, -, -, rfl⟩
  · exact absurd ⟨t, hc⟩ h
  · simp
  · simp

theorem not_completes_of_error {i : Instr} {s : State} {r : Raise} (h : effectOf i s.advance = .error r) :
    ¬ Completes i s := by
  rintro ⟨u, he, -⟩
  cases h.symm.trans he

section
variable {i : Instr} {s : State} (hnext : (s.pc + 2).toNat ≤ 0xFFF)
include hnext

/-- An effect that computes I completes exactly where it is an address (R24). -/
theorem completes_iff_of_setIChecked {a : Nat} (he : effectOf i s.advance = s.advance.setIChecked a) :
    Completes i s ↔ a ≤ 0xFFF := by
  rcases s.advance.setIChecked_cases a with ⟨ha, hc⟩ | ⟨ha, hc⟩
  · exact iff_of_true ⟨_, he.trans hc, hnext⟩ ha
  · exact iff_of_false (not_completes_of_error (he.trans hc)) (by omega)

/-- An effect that stores k + 1 bytes at I completes exactly where the last one's address is inside memory (R58). -/
theorem completes_iff_of_writeAtI {vs : List Byte} {k : Nat} (he : effectOf i s.advance = writeAtI s.advance vs)
    (hlen : vs.length = k + 1) : Completes i s ↔ s.I.toNat + k ≤ 0xFFF := by
  rcases writeAtI_cases s.advance (vs := vs) (by omega) with ⟨hin, hc⟩ | ⟨hout, hc⟩
  · rw [State.advance_I, Config.memSize] at hin
    exact iff_of_true ⟨_, he.trans hc, hnext⟩ (by omega)
  · rw [State.advance_I] at hout
    exact iff_of_false (not_completes_of_error (he.trans hc)) (by omega)

theorem completes_ldVxMem_iff (x : Reg) : Completes (.ldVxMem x) s ↔ s.I.toNat + x.val ≤ 0xFFF := by
  rcases readAtI_cases s.advance (x.val + 1) with ⟨hin, hc⟩ | ⟨-, hout, hc⟩
  · rw [State.advance_I, Config.memSize] at hin
    exact iff_of_true ⟨_, effectOf_ldVxMem_of_ok hc, hnext⟩ (by omega)
  · rw [State.advance_I] at hout
    exact iff_of_false (not_completes_of_error (effectOf_ldVxMem_of_error hc)) (by omega)

theorem completes_drw_iff (x y : Reg) (n : Nat) : Completes (.drw x y n) s ↔ n = 0 ∨ s.I.toNat + n - 1 ≤ 0xFFF := by
  rcases readAtI_cases s.advance n with ⟨hin, hc⟩ | ⟨hn, hout, hc⟩
  · rw [State.advance_I, Config.memSize] at hin
    exact iff_of_true ⟨_, effectOf_drw_of_ok x y hc, hnext⟩ (by omega)
  · rw [State.advance_I] at hout
    exact iff_of_false (not_completes_of_error (effectOf_drw_of_error x y hc)) (by omega)

end

/-- RET completes exactly where there is a return address and it lies inside memory (R101, R203). -/
theorem completes_ret_iff (s : State) :
    Completes .ret s ↔ 0 < s.sp.val ∧ ∀ k : Fin 16, k.val + 1 = s.sp.val → s.stack[k.val].toNat ≤ 0xFFF := by
  by_cases h : s.sp.val = 0
  · exact iff_of_false (not_completes_of_error (State.pop_eq_error (s := s.advance) h)) (by omega)
  · have hne : s.sp ≠ 0 := fun e => h (by rw [e]; rfl)
    obtain ⟨k, hk⟩ : ∃ k : Fin 16, s.sp = k.succ := (Fin.exists_succ_eq.mpr hne).imp fun _ => Eq.symm
    have hpop : effectOf .ret s.advance = .ok _ := State.pop_of_succ (s := s.advance) hk
    constructor
    · rintro ⟨u, he, hpc⟩
      cases hpop.symm.trans he
      refine ⟨by omega, fun j hj => ?_⟩
      obtain rfl : j = k := by rw [hk] at hj; simpa [Fin.ext_iff] using hj
      exact hpc
    · rintro ⟨-, hslot⟩
      exact ⟨_, hpop, hslot k (by rw [hk]; rfl)⟩

/-- CALL completes exactly where the stack is not full: its target is an address (R103, R202). -/
theorem completes_call_iff (s : State) (nnn : Addr12) : Completes (.call nnn) s ↔ s.sp.val < 16 := by
  rcases s.advance.push_cases with ⟨h, hc⟩ | ⟨h, hc⟩
  · exact iff_of_true ⟨_, effectOf_call_of_ok hc nnn, toNat_zextAddr_le nnn⟩ h
  · rw [State.advance_sp] at h
    exact iff_of_false (not_completes_of_error (effectOf_call_of_error hc nnn)) (by omega)

/-- JP_V0 completes exactly where the sum is an address (R104). -/
theorem completes_jpV0_iff (s : State) (nnn : Addr12) :
    Completes (.jpV0 nnn) s ↔ nnn.toNat + (s.reg .v0).toNat ≤ 0xFFF := by
  rw [← toNat_ofNat_addr_add_byte, ← zextAddr_add_zextByte]
  refine ⟨?_, fun h => ⟨_, rfl, h⟩⟩
  rintro ⟨u, he, hpc⟩
  cases he
  exact hpc

/-- An instruction without a check of its own completes where it leaves pc at the following instruction or one further. -/
theorem completes_of_pc {i : Instr} {s u : State} (he : effectOf i s.advance = .ok u) (hpc : s.pc.toNat ≤ 0xFFB)
    (hu : u.pc = s.pc + 2 ∨ u.pc = s.pc + 2 + 2) : Completes i s := by
  have hnext : (s.pc + 2).toNat = s.pc.toNat + 2 := by
    rw [BitVec.toNat_add, show (2 : Word).toNat = 2 from rfl]; omega
  refine ⟨u, he, ?_⟩
  rcases hu with hu | hu
  · rw [hu]; omega
  · rw [hu, BitVec.toNat_add, show (2 : Word).toNat = 2 from rfl]; omega

/-- A skip leaves pc at the following instruction or one further (R120). -/
theorem State.skipIf_pc_cases (t : State) (c : Bool) : (t.skipIf c).pc = t.pc ∨ (t.skipIf c).pc = t.pc + 2 := by
  cases c with
  | false => exact .inl rfl
  | true => exact .inr rfl

/-- LD_VX_K completes on either answer: pc goes back or on (R191). -/
theorem completes_ldVxK {s : State} (hpc : s.pc.toNat ≤ 0xFFB) (x : Reg) : Completes (.ldVxK x) s := by
  cases hp : s.pollAnswer with
  | none =>
    refine ⟨_, effectOf_ldVxK_of_none (t := s.advance) x hp, ?_⟩
    rw [State.advance_requestPoll_retry, State.requestPoll_pc]; omega
  | some k => exact completes_of_pc (effectOf_ldVxK_of_some (t := s.advance) x hp) hpc (.inl rfl)

/-- From at most 0xFFB an instruction completes exactly where its own check passes (R202 to R204). -/
theorem completes_iff_passesOwnCheck {s : State} (hpc : s.pc.toNat ≤ 0xFFB) (i : Instr) :
    Completes i s ↔ s.passesOwnCheck i := by
  have hnext : (s.pc + 2).toNat ≤ 0xFFF := toNat_add_two_le (by omega)
  cases i with
  | ret => exact completes_ret_iff s
  | call nnn => exact completes_call_iff s nnn
  | jpV0 nnn => exact completes_jpV0_iff s nnn
  | addIVx x => exact completes_iff_of_setIChecked hnext rfl
  | ldBVx x => exact completes_iff_of_writeAtI hnext rfl rfl
  | ldMemVx x => exact completes_iff_of_writeAtI hnext rfl (State.length_regsTo _ x)
  | ldVxMem x => exact completes_ldVxMem_iff hnext x
  | drw x y n => exact completes_drw_iff hnext x y n
  | ldFVx x => exact iff_of_true ((completes_iff_of_setIChecked hnext rfl).mpr (fontAddr_le (s.reg x))) trivial
  | jp nnn => exact iff_of_true ⟨_, rfl, toNat_zextAddr_le nnn⟩ trivial
  | ldVxK x => exact iff_of_true (completes_ldVxK hpc x) trivial
  | seImm | sneImm | seReg | sneReg | skp | sknp =>
    exact iff_of_true (completes_of_pc rfl hpc (State.skipIf_pc_cases _ _)) trivial
  | cls | ldImm | addImm | ldReg | or | and | xor | addReg | sub | shr | subn | shl | ldI | rnd | ldVxDt | ldDtVx
  | ldStVx => exact iff_of_true (completes_of_pc rfl hpc (.inl rfl)) trivial

/-! ### What a step that faults leaves and records -/

/-- The opcode that a step from `s` fetches, where the fetch succeeds (R53, R206). -/
def State.fetchedOpcode (s : State) : Option Word :=
  if s.pc.toNat ≤ 0xFFE then some (wordOfBytes (s.mem.get s.pc.toNat) (s.mem.get (s.pc.toNat + 1))) else none

theorem State.fetchedOpcode_of_ok {s : State} {op : Word} (h : fetch16 s s.pc.toNat = .ok op) :
    s.fetchedOpcode = some op := by
  rcases fetch16_cases s s.pc.toNat with ⟨hle, he⟩ | ⟨-, b, -, -, -, he⟩ <;> rw [he] at h <;> cases h
  exact if_pos hle

theorem State.fetchedOpcode_of_error {s : State} {r : Raise} (h : fetch16 s s.pc.toNat = .error r) :
    s.fetchedOpcode = none := by
  rcases fetch16_cases s s.pc.toNat with ⟨-, he⟩ | ⟨hgt, b, -, -, -, he⟩ <;> rw [he] at h <;> cases h
  exact if_neg (by omega)

/-- An instruction that faults takes its fault with its own opcode, the requests made standing (R85, R205). -/
theorem exec_takeFault {i : Instr} {s t : State} (hr : s.running) (h : exec i s = .next t) (ht : t.fault ≠ none) :
    ∃ now r, t = s.takeFault now (some (encode i)) r ∧ s.io <:+ now.io := by
  rw [exec_eq_runEffect] at h
  rcases runEffect_cases h with ⟨he, -⟩ | ⟨r, -, hu⟩ | ⟨now, he, -, hu⟩
  · exact absurd ((effectOf_changes he).fault_eq.trans hr) ht
  · exact ⟨s, r, hu, List.suffix_rfl⟩
  · obtain ⟨es, -, hio⟩ := effectOf_log (t := s.advance) he
    exact ⟨now, _, hu, es, hio.symm⟩

/-- A step port that ends in a faulted state has taken a fault with the opcode it fetched, whichever check raised it; the
requests made stand (R205, R206, R208). -/
theorem stepPort_takeFault {s t : State} (h : stepPort s = .next t) (ht : t.fault ≠ none) :
    ∃ now r, t = s.takeFault now s.fetchedOpcode r ∧ s.io <:+ now.io := by
  obtain ⟨hr, ⟨r, hf, hu⟩ | ⟨op, hf, -, hu⟩ | ⟨op, i, hf, hd, hx⟩⟩ := stepPort_cases h
  · rw [State.fetchedOpcode_of_error hf]
    exact ⟨s, r, hu, List.suffix_rfl⟩
  · rw [State.fetchedOpcode_of_ok hf]
    exact ⟨s, _, hu, List.suffix_rfl⟩
  · rw [State.fetchedOpcode_of_ok hf, ← encode_of_decodeWord hd]
    exact exec_takeFault hr hx ht

/-- The step port where the fetch raises (R204 item 1). -/
theorem stepPort_of_fetch_error {s : State} {r : Raise} (hr : s.running) (hf : fetch16 s s.pc.toNat = .error r) :
    stepPort s = .next (s.takeFault s none r) := by
  simp only [stepPort, hr, hf]

end Sys2Proof.Machine

/-- Settles O11: the state taken with a fault is the one the step port began in, but for the record and the requests. -/
theorem faultsArePrecise : Obligations.FaultsArePrecise := by
  intro s t _ h ht
  obtain ⟨now, r, rfl, hio⟩ := stepPort_takeFault (s := s.betweenSteps) h ht
  exact ⟨rfl, hio⟩

/-- Settles O12: the record is built from the step's own pc and the opcode it fetched, and the invariant kept by the step
says that it is legal. -/
theorem faultRecordDescribesTheStep : Obligations.FaultRecordDescribesTheStep := by
  intro s t r hs _ h hrec
  obtain ⟨-, haddress, hrange, -⟩ := (stepPort_inv hs.betweenSteps h).record r hrec
  obtain ⟨now, f, rfl, -⟩ := stepPort_takeFault (s := s.betweenSteps) h (by simp [hrec])
  refine ⟨by rw [State.stepAnswer, hrec], ?_, ?_, haddress, hrange, ?_⟩
  · cases hrec; rfl
  · cases hrec; rfl
  · show r.kind.code = _
    cases r.kind <;> rfl

/-- Settles O17: from at most 0xFFB to complete is to pass the own check, and not to complete is to fault. -/
theorem instructionsCompleteExactlyWhenTheirCheckPasses :
    Obligations.InstructionsCompleteExactlyWhenTheirCheckPasses := by
  intro i s hr hpc
  rw [← completes_iff_passesOwnCheck hpc i]
  exact ⟨fun h => h.exec hr, exec_of_not_completes⟩

/-- Settles O20: the log grows by what the effect requests, and of the six effects with a request only DRW's can raise. -/
theorem requestsPerInstruction : Obligations.RequestsPerInstruction := by
  intro i s t h
  cases i with
  | drw x y n => exact drw_io h
  | cls | skp | sknp | ldVxK | rnd => exact exec_io_of_one_request h rfl nofun
  | ret | jp | call | seImm | sneImm | seReg | ldImm | addImm | ldReg | or | and | xor | addReg | sub | shr | subn | shl
  | sneReg | ldI | jpV0 | ldVxDt | ldDtVx | ldStVx | addIVx | ldFVx | ldBVx | ldMemVx | ldVxMem =>
    exact exec_io_of_no_request h rfl

/-- Settles O9: the fetch raises before anything is done, with the address of its second byte. -/
theorem fetchAtTheLastAddressFaults : Obligations.FetchAtTheLastAddressFaults := by
  intro s hr hpc
  have hpc' : s.betweenSteps.pc = 0xFFF := hpc
  have hfetch : fetch16 s.betweenSteps s.betweenSteps.pc.toNat = .error (.outOfBounds 0x1000) := by
    rw [hpc']; exact fetch16_at_last _
  refine (stepPort_of_fetch_error (s := s.betweenSteps) hr hfetch).trans ?_
  rw [← hpc']
  rfl

/-- Settles O10: the step port looks at the fault status first, a tick leaves it alone, and a load resets it. -/
theorem faultLatchesUntilReset : Obligations.FaultLatchesUntilReset :=
  fun s _ h => ⟨stepPort_of_fault (s := s.betweenSteps) h, h, fun _ _ => State.running_of_load⟩

end

section
/-! PROOFS. Reset and hazards: the state after reset, what a load builds of any state, the timers under any number of ticks,
and the step at a self-loop (spec/70_reset_and_hazards.md R230 to R240). -/

open Sys2Proof Sys2Proof.Machine

namespace Sys2Proof.Machine

/-! ### The load port -/

/-- The images that fit, by their length (R233; decision D12). -/
theorem imageFits_iff (image : List Byte) : imageFits image = true ↔ image.length ≤ 3584 := by
  simp only [imageFits, decide_eq_true_eq, Config.loadBase, Config.memSize]
  omega

/-- The load port where the load succeeds (R218, R231). -/
theorem serve_load_of_some {s t : State} {image : List Byte} (h : s.load image = some t) :
    serve (.load image) s = .next t := by
  simp only [serve, h]

/-- The load port refuses an image that does not fit (R233). -/
theorem serve_load_of_not_fits {s : State} {image : List Byte} (h : ¬ imageFits image = true) :
    serve (.load image) s = .refused (.imageTooLarge image.length) := by
  simp only [serve, State.load, if_neg h]

/-- Memory after the load of an image that fits: the image at LOAD_BASE, the font table at FONT_BASE, zero elsewhere (R231;
decision D12). -/
theorem Memory.get_loaded {image : List Byte} (h : imageFits image = true) (a : Nat) :
    (Memory.setBytes [] Config.loadBase image).get a =
      if 0x200 ≤ a ∧ a < 0x200 + image.length then image.getD (a - 0x200) 0
      else if h : Config.fontBase.val ≤ a ∧ a - Config.fontBase.val < 80 then
        Config.fontData ⟨a - Config.fontBase.val, h.2⟩
      else 0 := by
  have hfit : Config.loadBase + image.length ≤ Config.memSize := of_decide_eq_true h
  split
  next hin =>
    obtain ⟨k, rfl⟩ := Nat.exists_eq_add_of_le hin.1
    have hk : k < image.length := Nat.lt_of_add_lt_add_left hin.2
    rw [Memory.get_setBytes_add Memory.wf_nil hfit hk, Nat.add_sub_cancel_left, List.getD_eq_getElem _ _ hk]
  next hout =>
    rw [Memory.get_setBytes_outside Memory.wf_nil hfit (by simp only [Config.loadBase]; omega), Memory.get_nil,
      Memory.resetByte_eq]

/-! ### The self-loop -/

/-- The ticks before a step leave a self-loop in place: it is a fact of memory and pc (R213, R240). -/
theorem State.atSelfLoop.betweenSteps {s : State} (h : s.atSelfLoop) : s.betweenSteps.atSelfLoop := h

/-- The step port at a self-loop jumps to where it is (R102, R240). -/
theorem stepPort_of_atSelfLoop {s : State} (hr : s.running) (h : s.atSelfLoop) : stepPort s = .next s := by
  obtain ⟨nnn, hfetch, hnnn⟩ := h
  have htarget : BitVec.ofNat 16 nnn.toNat = s.pc := by rw [hnnn, BitVec.ofNat_toNat, BitVec.setWidth_eq]
  calc stepPort s = exec (.jp nnn) s := stepPort_of_decode hr hfetch (decodeWord_encode rfl)
    _ = .next { s with pc := BitVec.ofNat 16 nnn.toNat } := (jpSetsPc s nnn).2
    _ = .next s := by rw [htarget]

end Sys2Proof.Machine

/-- Settles O25: an image that fits is written over the reset contents, which are the font table and zeros. -/
theorem loadBuildsTheResetState : Obligations.LoadBuildsTheResetState := by
  intro s image
  rw [← imageFits_iff, ← Nat.not_le, ← imageFits_iff]
  exact ⟨fun h => ⟨_, serve_load_of_some (State.load_eq_some.mpr ⟨h, rfl⟩), Memory.get_loaded h⟩, serve_load_of_not_fits⟩

/-- Settles O54: n ticks are one update of the timers (`State.iterate_tick`, by induction), by n or down to 0. -/
theorem delayTimerCountsDown : Obligations.DelayTimerCountsDown := by
  intro s n
  rw [State.iterate_tick]
  exact ⟨toNat_timerAfter n s.DT, toNat_timerAfter n s.ST⟩

/-- Settles O14: memory lists no byte, no slot is pending, and pc, I and the slots are constants within their bounds. -/
theorem resetMeetsTheInvariant : Obligations.ResetMeetsTheInvariant := State.reset_inv

/-- Settles O24: the registers and the slots are replicated zeros, and the rest is written in the reset state itself. -/
theorem resetState : Obligations.ResetState :=
  ⟨fun r => Vector.getElem_replicate r.isLt, rfl, rfl, rfl, fun j => Vector.getElem_replicate j.isLt, rfl, rfl, rfl⟩

/-- Settles O32: the ticks leave the self-loop in place, and the step port there answers the state it is given. -/
theorem selfLoopChangesOnlyTheTimers : Obligations.SelfLoopChangesOnlyTheTimers :=
  fun s hr h => ⟨(step_eq s).trans (stepPort_of_atSelfLoop (s := s.betweenSteps) hr h.betweenSteps), h.betweenSteps⟩

end
